-- ==== Sys2Proof/Word.lean ====
section
/-! DEFINITION. The words of the machine: 32-bit command, event and entry words (30 R80), bytes of data memory
(20 R60) and the 16-bit quantities of 00 R7. Registers whose width is a parameter (TICKS, EC and the registers fed
from them) are natural numbers, reduced by an explicit `% 2 ^ width` wherever the rules write `mod` (00 R10). -/

namespace Sys2Proof

/-- A command, event or entry word (30 R80). -/
abbrev Word := BitVec 32

/-- A byte of data memory or of the bus (20 R60). -/
abbrev Byte := BitVec 8

/-- A 16-bit quantity: timestamps, intervals, raw values, addresses (00 R7, 20 R60). -/
abbrev Half := BitVec 16

end Sys2Proof
end

