-- ==== Sys2Proof/Config.lean ====
section
/-! DEFINITION. What an implementation fixes (the parameters of 00 R7 and R8) and the free values of the model.
The constants with no body are open to every value: nothing in Lean evaluates them. -/

namespace Sys2Proof

/-! ## Parameters fixed by the source (00 R7) -/

/-- N_DATA, the data bits of a reading. -/
def nData : Nat := 40
/-- N_HANDSHAKE, the edges of a window that are not data. -/
def nHandshake : Nat := 2
/-- MAX_EDGE, the last recorded edge. -/
def maxEdge : Nat := 42
/-- DECODE_MIN_EDGES, the edges a decode needs (90 C1). -/
def decodeMinEdges : Nat := 43
/-- TPS, ticks per second. -/
def ticksPerSecond : Nat := 100

/-! ## Parameters the source leaves open (00 R8) -/

/-- US_TO_COUNTS as plain data (log entry 4): `perMicrosecond * n`, but for the listed exceptions. Every total
function of the 24-bit `n` has such a table (`Sys2Proof.Laws.usTable_represents`). -/
structure UsTable where
  perMicrosecond : Nat
  exceptions : List (Nat × Nat)
  deriving DecidableEq, Repr, Inhabited

/-- US_TO_COUNTS(n): timer counts for n microseconds. -/
def UsTable.counts (t : UsTable) (n : BitVec 24) : Nat :=
  match t.exceptions.lookup n.toNat with
  | some c => c
  | none => t.perMicrosecond * n.toNat

/-- The open parameters, arguments of the spec's step relation (00 R8, 10 R20). -/
structure Params where
  /-- P, TIMER_PERIOD: the timer counts 0 to P-1. -/
  period : Nat
  /-- THR_CONST, the threshold ARM loads. -/
  thrConst : Half
  /-- TICK_BITS, the width of `ticks`. -/
  tickBits : Nat
  /-- EC_BITS, the width of `edgeCount`. -/
  ecBits : Nat
  /-- GUARD, the fine delay's guard band in timer counts. -/
  guardBand : Nat
  /-- US_TO_COUNTS. -/
  usToCounts : UsTable
  /-- ST_START. -/
  stStart : Byte
  /-- ST_REPSTART. -/
  stRepStart : Byte
  /-- ST_SLAW_ACK. -/
  stSlawAck : Byte
  /-- ST_DATA_ACK. -/
  stDataAck : Byte
  /-- ARM_CLEARS_CAPTURE_PENDING. -/
  armClearsCapturePending : Bool
  /-- MEM_SIZE, bytes of data memory. -/
  memSize : Nat
  deriving DecidableEq, Repr

/-- The constraints 00 R8 puts on the parameters (those on the 8- and 16-bit values are their types). -/
abbrev Params.Legal (p : Params) : Prop :=
  2 ≤ p.period ∧ p.period ≤ 65535 ∧ 8 ≤ p.tickBits ∧ 6 ≤ p.ecBits ∧
    1 ≤ p.guardBand ∧ p.guardBand ≤ p.period ∧ 1 ≤ p.memSize ∧ p.memSize ≤ 65536

/-! The implementation's choice of each open parameter: constants with no body. The offsets below make every
legal value, and no other, the value of some choice. -/

opaque Config.periodChoice : Fin 65534
opaque Config.thrConst : Half
opaque Config.tickBitsChoice : Nat
opaque Config.ecBitsChoice : Nat
opaque Config.guardChoice : Nat
opaque Config.usToCounts : UsTable
opaque Config.stStart : Byte
opaque Config.stRepStart : Byte
opaque Config.stSlawAck : Byte
opaque Config.stDataAck : Byte
opaque Config.armClearsCapturePending : Bool
opaque Config.memSizeChoice : Fin 65536

/-- P of this implementation, some value of 2..65535. -/
def Config.period : Nat := 2 + Config.periodChoice.val

/-- The parameters of this implementation: legal, otherwise open (log entry 3). -/
def Config.params : Params where
  period := Config.period
  thrConst := Config.thrConst
  tickBits := 8 + Config.tickBitsChoice
  ecBits := 6 + Config.ecBitsChoice
  guardBand := 1 + Config.guardChoice % Config.period
  usToCounts := Config.usToCounts
  stStart := Config.stStart
  stRepStart := Config.stRepStart
  stSlawAck := Config.stSlawAck
  stDataAck := Config.stDataAck
  armClearsCapturePending := Config.armClearsCapturePending
  memSize := 1 + Config.memSizeChoice.val

/-- The illustrative values of 00 R9, used by the spec's vectors: no claim about the hardware, and nothing but
tests uses them. -/
def Params.illustrative : Params where
  period := 20000
  thrConst := 100
  tickBits := 32
  ecBits := 16
  guardBand := 4
  usToCounts := ⟨2, []⟩
  stStart := 0x08
  stRepStart := 0x10
  stSlawAck := 0x18
  stDataAck := 0x28
  armClearsCapturePending := true
  memSize := 65536

/-! ## Which agent moves, and the free values -/

/-- One step of a written-down run (30 R92): a step of the thread (the command at pc, or the phase it re-checks),
or an event or entry word naming an environment or CORE step. -/
inductive Action where
  | thread
  | word (w : Word)
  deriving DecidableEq, Repr, Inhabited

/-- A free 16-bit value (40 R119; log entries 9, 10), one for each draw. -/
opaque Config.freeHalf : Nat → Half

/-- A free choice of the next agent (00 R14, 60 R206, R207; log entry 2), one for each draw. -/
opaque Config.freeAction : Nat → Action

end Sys2Proof
end

