-- ==== Sys2Proof/Syntax.lean ====
section
/-! DEFINITION. The commands, environment events and interrupt entries of the block: one constructor for each row
of spec/opcode_table.json, with the operand fields of formats N, U, B, S, E and I (30 R82 to R88). -/

namespace Sys2Proof

/-- The 19 words of 30 R88. Operands are the unsigned bit fields of the word (30 R89). -/
inductive Instr where
  /-- END, 0x00. -/
  | endRun
  /-- ARM, 0x01: `armMeasurement()`. -/
  | arm
  /-- DISARM, 0x02: `disarmMeasurement()`. -/
  | disarm
  /-- DECODE, 0x03: `computeReading()`. -/
  | decode
  /-- SUBMIT, 0x10: `submitWrite(address, bytes)`. -/
  | submit (addr : BitVec 7) (len : Half) (base : Half)
  /-- AWAIT, 0x11: `awaitWriteComplete()`. -/
  | await
  /-- WAITS, 0x20: `waitSeconds(n)`. -/
  | waits (n : BitVec 24)
  /-- WAITUS, 0x21: `waitMicroseconds(n)`. -/
  | waitus (n : BitVec 24)
  /-- NOW, 0x22: `nowTicks()`. -/
  | now
  /-- CSENTER, 0x30. -/
  | csenter
  /-- CSEXIT, 0x31. -/
  | csexit
  /-- SLEEP, 0x32. -/
  | sleep
  /-- STB, 0x40: the caller writes one byte of its buffer. -/
  | stb (a : Half) (v : Byte)
  /-- EV_TCNT, 0x80: the timer register advances by one count. -/
  | evTcnt
  /-- EV_EDGE, 0x81: a falling edge on the sense line. -/
  | evEdge
  /-- EV_BUS, 0x82: bus controller completion with status s. -/
  | evBus (s : Byte)
  /-- INT_TICK, 0x90: the tick interrupt is taken. -/
  | intTick
  /-- INT_CAP, 0x91: the capture interrupt is taken. -/
  | intCap
  /-- INT_BUS, 0x92: the bus interrupt is taken. -/
  | intBus
  deriving DecidableEq, Repr

/-- Who produces a word (30 R81): the thread's command list, the environment, or the CORE agent. -/
inductive Space where
  | command
  | event
  | entry
  deriving DecidableEq, Repr

/-- The space an instruction's opcode lies in (30 R81). -/
def Instr.space : Instr → Space
  | .endRun | .arm | .disarm | .decode | .submit .. | .await | .waits _ | .waitus _ | .now | .csenter | .csexit
  | .sleep | .stb .. => .command
  | .evTcnt | .evEdge | .evBus _ => .event
  | .intTick | .intCap | .intBus => .entry

/-- The opcode, bits 31..24 of the (first) word (30 R88). -/
def Instr.opcode : Instr → Byte
  | .endRun => 0x00
  | .arm => 0x01
  | .disarm => 0x02
  | .decode => 0x03
  | .submit .. => 0x10
  | .await => 0x11
  | .waits _ => 0x20
  | .waitus _ => 0x21
  | .now => 0x22
  | .csenter => 0x30
  | .csexit => 0x31
  | .sleep => 0x32
  | .stb .. => 0x40
  | .evTcnt => 0x80
  | .evEdge => 0x81
  | .evBus _ => 0x82
  | .intTick => 0x90
  | .intCap => 0x91
  | .intBus => 0x92

/-- The length in words: 2 for SUBMIT, 1 for every other (30 R88, R90). -/
def Instr.length : Instr → Nat
  | .submit .. => 2
  | _ => 1

end Sys2Proof
end

