-- ==== Sys2Proof/WellFormed.lean ====
section
/-! DEFINITION. What is well formed: an instruction in the space it may stand in (30 R81), a command list, and a
line of assembler with operands in range (30 R93), with the source's call names as other names of commands (30 R94). -/

namespace Sys2Proof

/-- An instruction may stand in a command list exactly when it is a thread command (30 R81). -/
def Instr.isCommand (i : Instr) : Bool := i.space == .command

/-- An instruction may stand in a written-down run as a word exactly when it is an event or an entry (30 R81, R92). -/
def Instr.isRunWord (i : Instr) : Bool := i.space != .command

/-- Well-formed in a space: the instruction's opcode is one of that space (30 R81). -/
def Instr.wellFormedIn (sp : Space) (i : Instr) : Bool := i.space == sp

/-- A command list holds thread commands only (10 R21, 30 R81). -/
def commandListWellFormed (is : List Instr) : Bool := is.all Instr.isCommand

/-- One line of assembler (30 R93), its numbers as written. -/
inductive AsmLine where
  | plain (i : Instr)
  | submit (addr len base : Nat)
  | waits (n : Nat)
  | waitus (n : Nat)
  | stb (a v : Nat)
  deriving DecidableEq, Repr

/-- The operand ranges of 30 R93. A `plain` line is one of the mnemonics without operands. -/
def AsmLine.wellFormed : AsmLine → Bool
  | .plain i =>
    match i with
    | .endRun | .arm | .disarm | .decode | .await | .now | .csenter | .csexit | .sleep => true
    | .submit .. | .waits _ | .waitus _ | .stb .. | .evTcnt | .evEdge | .evBus _ | .intTick | .intCap | .intBus => false
  | .submit addr len base => addr ≤ 127 && len ≤ 65535 && base ≤ 65535
  | .waits n => n ≤ 16777215
  | .waitus n => n ≤ 16777215
  | .stb a v => a ≤ 65535 && v ≤ 255

/-- Assembling a line: out of range is an assembly error, no word (30 R93). -/
def AsmLine.assemble (l : AsmLine) : Option Instr :=
  if l.wellFormed then
    match l with
    | .plain i => some i
    | .submit addr len base => some (.submit (BitVec.ofNat 7 addr) (BitVec.ofNat 16 len) (BitVec.ofNat 16 base))
    | .waits n => some (.waits (BitVec.ofNat 24 n))
    | .waitus n => some (.waitus (BitVec.ofNat 24 n))
    | .stb a v => some (.stb (BitVec.ofNat 16 a) (BitVec.ofNat 8 v))
  else none

/-- The calls of the source's interface, each under every name the source gives it (30 R94, 90 C6). -/
inductive SourceCall where
  | armMeasurement
  | disarmMeasurement
  | computeReading
  | submitWrite (address len base : Nat)
  | submit (address len base : Nat)
  | twiSendCommand (address len base : Nat)
  | awaitWriteComplete
  | awaitCompletion
  | waitSeconds (n : Nat)
  | waitMicroseconds (n : Nat)
  | nowTicks
  deriving DecidableEq, Repr

/-- Each call expands to one command (30 R94). -/
def SourceCall.expand : SourceCall → AsmLine
  | .armMeasurement => .plain .arm
  | .disarmMeasurement => .plain .disarm
  | .computeReading => .plain .decode
  | .submitWrite a l b | .submit a l b | .twiSendCommand a l b => .submit a l b
  | .awaitWriteComplete | .awaitCompletion => .plain .await
  | .waitSeconds n => .waits n
  | .waitMicroseconds n => .waitus n
  | .nowTicks => .plain .now

end Sys2Proof
end

