-- ==== Sys2Proof/Decode.lean ====
section
/-! DEFINITION. Decoding, total on any words, refusing by name (30 R82 to R91), and the encoder written from the
same formats (30 R95). -/

namespace Sys2Proof

/-- Why a fetch is refused (30 R91, 60 R202). -/
inductive RefuseReason where
  /-- RF_PC_RANGE: pc is at or past the end of the command list. -/
  | pcRange
  /-- RF_OPCODE: the opcode is not one that may stand there. -/
  | opcode
  /-- RF_RESERVED: a reserved field is not 0. -/
  | reserved
  /-- RF_SUBMIT_TAIL: SUBMIT has no second word. -/
  | submitTail
  deriving DecidableEq, Repr

/-- Bits 31..24 (30 R80). -/
def opField (w : Word) : Byte := w.extractLsb' 24 8

/-- Bits 23..0, the operand field (30 R80). -/
def operandField (w : Word) : BitVec 24 := w.extractLsb' 0 24

/-- Format N: the operand field is reserved and must be 0 (30 R82; formats E without status and I, R86, R87). -/
def decodeN (w : Word) (i : Instr) : Except RefuseReason Instr :=
  if operandField w = 0 then .ok i else .error .reserved

/-- Format B, SUBMIT's two words (30 R84, R91): the tail is missed before a reserved field is looked at. -/
def decodeB (w : Word) (tail : Option Word) : Except RefuseReason Instr :=
  match tail with
  | none => .error .submitTail
  | some w1 =>
    if w.getLsbD 16 = true ∨ w1.extractLsb' 16 16 ≠ 0 then .error .reserved
    else .ok (.submit (w.extractLsb' 17 7) (w.extractLsb' 0 16) (w1.extractLsb' 0 16))

/-- Format S, STB (30 R85). -/
def decodeS (w : Word) : Instr := .stb (w.extractLsb' 8 16) (w.extractLsb' 0 8)

/-- Format E with a status, EV_BUS: bits 23..8 are reserved (30 R86). -/
def decodeE (w : Word) : Except RefuseReason Instr :=
  if w.extractLsb' 8 16 = 0 then .ok (.evBus (w.extractLsb' 0 8)) else .error .reserved

/-- Decoding of a word, with the word after it if there is one, by its opcode (30 R88, R90, R91). -/
def decodeWord (w : Word) (tail : Option Word) : Except RefuseReason Instr :=
  match (opField w).toNat with
  | 0x00 => decodeN w .endRun
  | 0x01 => decodeN w .arm
  | 0x02 => decodeN w .disarm
  | 0x03 => decodeN w .decode
  | 0x10 => decodeB w tail
  | 0x11 => decodeN w .await
  | 0x20 => .ok (.waits (operandField w))
  | 0x21 => .ok (.waitus (operandField w))
  | 0x22 => decodeN w .now
  | 0x30 => decodeN w .csenter
  | 0x31 => decodeN w .csexit
  | 0x32 => decodeN w .sleep
  | 0x40 => .ok (decodeS w)
  | 0x80 => decodeN w .evTcnt
  | 0x81 => decodeN w .evEdge
  | 0x82 => decodeE w
  | 0x90 => decodeN w .intTick
  | 0x91 => decodeN w .intCap
  | 0x92 => decodeN w .intBus
  | _ => .error .opcode

/-- Decoding of a list of words: the instruction its first word or words hold. -/
def decodeWords : List Word → Except RefuseReason Instr
  | [] => .error .pcRange
  | w :: rest => decodeWord w rest.head?

/-- The opcodes a command list may hold (30 R91). -/
def commandOpcodes : List Byte :=
  [0x00, 0x01, 0x02, 0x03, 0x10, 0x11, 0x20, 0x21, 0x22, 0x30, 0x31, 0x32, 0x40]

/-- The fetch of 30 R91 at command index pc: pc past the end, then the opcode, then the reserved fields. -/
def fetchAt (cl : List Word) (pc : Nat) : Except RefuseReason Instr :=
  match cl.drop pc with
  | [] => .error .pcRange
  | w :: rest =>
    if commandOpcodes.contains (opField w) then decodeWord w rest.head? else .error .opcode

/-- The word with an opcode in bits 31..24 and an operand field in bits 23..0 (30 R80). -/
def encodeOp (op : Byte) (operand : BitVec 24) : Word := (op.setWidth 32 <<< 24) ||| operand.setWidth 32

/-- Formats N, I and E without a status: opcode and a zero operand field (30 R82, R86, R87). -/
def encodeN (op : Byte) : Word := encodeOp op 0

/-- The words of an instruction (30 R82 to R88): each operand at the place of its lowest bit. -/
def encode : Instr → List Word
  | .submit addr len base =>
    [encodeOp 0x10 ((addr.setWidth 24 <<< 17) ||| len.setWidth 24), base.setWidth 32]
  | .waits n => [encodeOp 0x20 n]
  | .waitus n => [encodeOp 0x21 n]
  | .stb a v => [encodeOp 0x40 ((a.setWidth 24 <<< 8) ||| v.setWidth 24)]
  | .evBus s => [encodeOp 0x82 (s.setWidth 24)]
  | .endRun => [encodeN 0x00]
  | .arm => [encodeN 0x01]
  | .disarm => [encodeN 0x02]
  | .decode => [encodeN 0x03]
  | .await => [encodeN 0x11]
  | .now => [encodeN 0x22]
  | .csenter => [encodeN 0x30]
  | .csexit => [encodeN 0x31]
  | .sleep => [encodeN 0x32]
  | .evTcnt => [encodeN 0x80]
  | .evEdge => [encodeN 0x81]
  | .intTick => [encodeN 0x90]
  | .intCap => [encodeN 0x91]
  | .intBus => [encodeN 0x92]

/-- The first word of a number whose bits are laid out as spec/opcode_table.json numbers them, the bits at and
above `nbits` being 0. -/
def tableWord0 (nbits w : Nat) : Word := BitVec.ofNat 32 (w % 2 ^ nbits)

/-- The second word of such a number. -/
def tableWord1 (nbits w : Nat) : Word := BitVec.ofNat 32 (w % 2 ^ nbits / 2 ^ 32)

/-- The instruction the decoder reads from the table's numbering of an instruction's bits. -/
def decodeTableWord (nbits w : Nat) : Option Instr :=
  match decodeWords [tableWord0 nbits w, tableWord1 nbits w] with
  | .ok i => some i
  | .error _ => none

end Sys2Proof
end

