-- ==== Sys2Proof/Machine/State.lean ====
section
/-! DEFINITION. The state of the block (10 R20 to R47) as plain data, and the state right after reset (70 R240).
Beside the spec's registers it carries the arguments of the spec's step relation (parameters, command list; log
entry 3) and three fields of the model's own (agenda, boot, draws; log entries 1, 2, 8). -/

namespace Sys2Proof.Machine

/-! ## Enumerations (10 R22, R47) -/

/-- The phase a wait resumes at (10 R22). -/
inductive Resume where
  | run
  | awaitCheck
  | waitsCheck
  deriving DecidableEq, Repr

/-- TPH, the thread phase (10 R22). -/
inductive Phase where
  | run
  | awaitCheck
  | waitsCheck
  | waitusPoll
  | preSleep (r : Resume)
  | sleeping (r : Resume)
  | halted
  | faulted
  deriving DecidableEq, Repr

/-- The phase a resume point names. -/
def Resume.toPhase : Resume → Phase
  | .run => .run
  | .awaitCheck => .awaitCheck
  | .waitsCheck => .waitsCheck

/-- RVAL's values (10 R47). -/
inductive Validity where
  | valid
  | parityError
  | incomplete
  deriving DecidableEq, Repr

/-- The encoding of RVAL (10 R47). -/
def Validity.code : Validity → BitVec 2
  | .valid => 0
  | .parityError => 1
  | .incomplete => 2

/-- BST's values (10 R31, R47). -/
inductive BusState where
  | idle
  | starting
  | addressSent
  | dataSending
  | stopped
  | error
  deriving DecidableEq, Repr

/-- The encoding of BST (10 R47). -/
def BusState.code : BusState → BitVec 3
  | .idle => 0
  | .starting => 1
  | .addressSent => 2
  | .dataSending => 3
  | .stopped => 4
  | .error => 5

/-- One entry of BTRACE (10 R36). -/
inductive BusAction where
  | start
  | write (b : Byte)
  | stop
  deriving DecidableEq, Repr

/-- The interrupt sources (60 R203). -/
inductive Source where
  | tick
  | capture
  | bus
  deriving DecidableEq, Repr

/-- The model faults of 60 R201. They are recorded in FAULT; the step that records one is a next state. -/
inductive ModelFault where
  | armArmed
  | decodeArmed
  | busBusy
  | busLen0
  | memRange
  | payloadMutated
  | csNested
  | csUnbalanced
  | fineRange
  deriving DecidableEq, Repr

/-- The codes of 60 R201. -/
def ModelFault.code : ModelFault → BitVec 4
  | .armArmed => 1
  | .decodeArmed => 2
  | .busBusy => 3
  | .busLen0 => 4
  | .memRange => 5
  | .payloadMutated => 6
  | .csNested => 7
  | .csUnbalanced => 8
  | .fineRange => 9

/-- How far the boot sequence of 70 R242 has come. The model's own. -/
inductive BootStage where
  /-- Nothing done: the state right after reset. -/
  | powerOn
  /-- (1) done: the timer is configured. -/
  | timerSet
  /-- (2) done: IE_TICK and IE_BUS are set. -/
  | sourcesSet
  /-- (3) done: GIE is set, the launch state. -/
  | launched
  deriving DecidableEq, Repr

/-! ## Register groups -/

/-- The result registers (10 R23 to R25). -/
structure Results where
  rval : Validity
  rhum : Half
  rtemp : Half
  rsucc : Bool
  rerr : Byte
  /-- RNOW, TICK_BITS bits. -/
  rnow : Nat
  deriving DecidableEq, Repr

/-- MeasurementWindow (10 R26 to R29). -/
structure Window where
  /-- EC, EC_BITS bits. -/
  edgeCount : Nat
  /-- LET. -/
  lastEdge : Half
  /-- IV[0..39]. -/
  intervals : Vector Half 40
  /-- THR. -/
  threshold : Half
  deriving DecidableEq, Repr

/-- BusTransaction and the bus controller's state (10 R31 to R36). -/
structure Bus where
  bst : BusState
  baddr : BitVec 7
  bbase : Half
  blen : Half
  bptr : Half
  brem : Half
  berr : Byte
  bstat : Byte
  bhw : Bool
  /-- BTRACE, oldest first. -/
  btrace : List BusAction
  deriving DecidableEq, Repr

/-- SystemClock, the platform timer and the wait registers (10 R37 to R39, R44). -/
structure Clock where
  /-- TICKS, TICK_BITS bits. -/
  ticks : Nat
  tcnt : Half
  icr : Half
  /-- WTARGET, TICK_BITS bits. -/
  wtarget : Nat
  wlo : Half
  deriving DecidableEq, Repr

/-- The interrupt control registers (10 R40 to R43). -/
structure Irq where
  gie : Bool
  ieTick : Bool
  ieCap : Bool
  ieBus : Bool
  ifTick : Bool
  ifCap : Bool
  ifBus : Bool
  csActive : Bool
  csSaved : Bool
  deriving DecidableEq, Repr

/-- Data memory (20 R60) as the listed bytes, addresses strictly rising, none equal to what an unlisted address
reads as. -/
abbrev Memory := List Host.Cell

/-- What an unlisted address reads as. DESIGN CHOICE, unsafe (log entry 6): the spec makes the contents at launch
an argument (70 R240); a state may list any bytes. -/
def unlistedByte : Byte := 0

/-! ## The state -/

/-- The state of the block (10 R20). -/
structure State where
  /-- The parameters (00 R8), an argument of the step relation; no step writes them. -/
  params : Params
  /-- CL, the command list (10 R21), an argument of the step relation; no step writes it. -/
  cl : List Word
  /-- The written-down run still to be taken (30 R92). The model's own. -/
  agenda : List Action
  /-- The boot sequence (70 R242). The model's own. -/
  boot : BootStage
  /-- How many free values have been drawn. The model's own; no statement rests on its value. -/
  draws : Nat
  /-- pc, the command index (10 R21). -/
  pc : Nat
  /-- TPH (10 R22). -/
  tph : Phase
  res : Results
  win : Window
  bus : Bus
  clk : Clock
  irq : Irq
  /-- FAULT (10 R45). -/
  fault : BitVec 4
  /-- REFUSED (10 R45). -/
  refused : Bool
  mem : Memory
  deriving DecidableEq, Repr

/-- Every register at its reset value (10 R46, 70 R240), for given parameters, command list and launch memory. -/
def State.powerOn (p : Params) (cl : List Word) (mem : Memory) : State where
  params := p
  cl := cl
  agenda := []
  boot := .powerOn
  draws := 0
  pc := 0
  tph := .run
  res := { rval := .incomplete, rhum := 0, rtemp := 0, rsucc := false, rerr := 0, rnow := 0 }
  win := { edgeCount := 0, lastEdge := 0, intervals := Vector.replicate 40 0, threshold := p.thrConst }
  bus := { bst := .idle, baddr := 0, bbase := 0, blen := 0, bptr := 0, brem := 0, berr := 0, bstat := 0,
           bhw := false, btrace := [] }
  clk := { ticks := 0, tcnt := 0, icr := 0, wtarget := 0, wlo := 0 }
  irq := { gie := false, ieTick := false, ieCap := false, ieBus := false, ifTick := false, ifCap := false,
           ifBus := false, csActive := false, csSaved := false }
  fault := 0
  refused := false
  mem := mem

/-- The machine right after reset (70 R240): no command list and no launch memory given yet (log entries 5, 7). -/
def State.reset : State := State.powerOn Config.params [] []

/-! ## How a step can stop -/

/-- Faults of the model itself. The block has no hardware exception (60 R200), and the spec's model faults are
recorded in FAULT by a next state (60 R201). -/
inductive Fault where
  /-- Raised by the bus handler (INT_BUS) when it would read a payload byte at an address outside data memory, an
  access the spec says is never performed (20 R63). Safe: no run reaches it, since SUBMIT checks the range. -/
  | noSuchByte (address : Nat)
  deriving DecidableEq, Repr

/-- Why a step has no meaning. Each names something that is no step of the machine (30 R92). -/
inductive Refusal where
  /-- Raised by an arm of `exec` for an instruction without a meaning; no arm is left so. Safe. -/
  | notModelled (mnemonic : String)
  /-- Raised by INT_TICK, INT_CAP and INT_BUS when entry for the source is not enabled (60 R204). Safe: the run
  written down is no run of the machine (30 R92). -/
  | entryNotEnabled (q : Source)
  /-- Raised by EV_BUS when no bus operation is in flight, BHW = 0 (60 R213). Safe, for the same reason. -/
  | noBusOperation
  /-- Raised by a thread step when the thread has none: SLEEPING, HALTED or FAULTED (10 R22). Safe, for the same
  reason. -/
  | threadHasNoStep
  /-- Raised by a run word that is neither an event nor an entry word (30 R81, R92). Safe, for the same reason. -/
  | notARunWord (w : Word)
  deriving DecidableEq, Repr

end Sys2Proof.Machine
end

