-- ==== Sys2Proof/Machine/Flags.lean ====
section
/-! DEFINITION. The status values the block computes (10 R48: it has no condition codes): the busy states of the bus
(10 R47), and the bits, checksum and verdict of a decode (40 R110 to R115). -/

namespace Sys2Proof.Machine

/-- BST is "busy" in Starting, AddressSent and DataSending, and idle/terminal otherwise (10 R47). -/
def BusState.busy : BusState → Bool
  | .starting | .addressSent | .dataSending => true
  | .idle | .stopped | .error => false

/-- b[i] = (IV[i] > THR), unsigned and strict (40 R111, R115). -/
def Window.bit (w : Window) (i : Nat) : Bool :=
  match w.intervals[i]? with
  | some v => decide (w.threshold < v)
  | none => false

/-- The sum over i < len of b[start + i] << (len - 1 - i): `len` bits assembled most significant first
(40 R103, R112, R113). -/
def Window.field (w : Window) (start len : Nat) : Nat :=
  ((List.range len).map (fun i => (w.bit (start + i)).toNat <<< (len - 1 - i))).sum

/-- hum (40 R112). -/
def Window.humidity (w : Window) : Half := BitVec.ofNat 16 (w.field 0 16)

/-- temp (40 R112). -/
def Window.temperature (w : Window) : Half := BitVec.ofNat 16 (w.field 16 16)

/-- ck (40 R113). -/
def Window.checksum (w : Window) : Byte := BitVec.ofNat 8 (w.field 32 8)

/-- hum[7:0] + hum[15:8] + temp[7:0] + temp[15:8] modulo 256 (40 R114). -/
def byteSum (hum temp : Half) : Byte :=
  BitVec.ofNat 8 (((hum.extractLsb' 0 8).toNat + (hum.extractLsb' 8 8).toNat + (temp.extractLsb' 0 8).toNat
    + (temp.extractLsb' 8 8).toNat) % 256)

/-- Valid or ParityError (40 R114). -/
def Window.verdict (w : Window) : Validity :=
  if w.checksum = byteSum w.humidity w.temperature then .valid else .parityError

end Sys2Proof.Machine
end

