-- ==== Sys2Proof/Machine/Operands.lean ====
section
/-! DEFINITION. The operands the meanings compute: intervals (40 R108), the readings of RHUM and RTEMP (40 R116), the
address byte (41 R139), borrowed bytes (43 R185), the coarse target (42 R163) and the fine window (42 R166, R168). -/

namespace Sys2Proof.Machine

/-- interval(ts, let), accounting for one wrap of a timer of period P (40 R108). -/
def interval (p : Nat) (ts last : Half) : Half :=
  if last < ts then ts - last else BitVec.ofNat 16 (p - (last.toNat - ts.toNat))

/-- Humidity in tenths of a percent: unsigned (40 R116). -/
def humidityTenths (raw : Half) : Nat := raw.toNat

/-- Temperature in tenths of a degree: sign in bit 15, magnitude in bits 14..0 (40 R116). -/
def temperatureTenths (raw : Half) : Int :=
  if raw.getLsbD 15 then -((raw.extractLsb' 0 15).toNat : Int) else ((raw.extractLsb' 0 15).toNat : Int)

/-- addrbyte(a) = {a[6:0], 0} (41 R139; log entry 16). -/
def addrByte (a : BitVec 7) : Byte := a ++ (0#1)

/-- borrowed(a): BST is busy and a lies in the submitted buffer (43 R185). -/
def State.borrowed (s : State) (a : Nat) : Bool :=
  s.bus.bst.busy && decide (s.bus.bbase.toNat ≤ a) && decide (a < s.bus.bbase.toNat + s.bus.blen.toNat)

/-- The coarse delay's target, (TICKS + n * TPS) mod 2^TICK_BITS (42 R163). -/
def State.coarseTarget (s : State) (n : BitVec 24) : Nat :=
  (s.clk.ticks + n.toNat * ticksPerSecond) % 2 ^ s.params.tickBits

/-- c = US_TO_COUNTS(n) (42 R166). -/
def State.fineCounts (s : State) (n : BitVec 24) : Nat := s.params.usToCounts.counts n

/-- The low end of the fine window, (TCNT + c) mod P (42 R166). -/
def State.fineLow (s : State) (n : BitVec 24) : Half :=
  BitVec.ofNat 16 ((s.clk.tcnt.toNat + s.fineCounts n) % s.params.period)

/-- (TCNT - WLO) mod P < GUARD, the remainder non-negative (42 R168, 00 R10). -/
def State.inFineWindow (s : State) : Bool :=
  decide (((s.clk.tcnt.toNat : Int) - (s.clk.wlo.toNat : Int)) % (s.params.period : Int) < (s.params.guardBand : Int))

/-- BPTR + 1 (41 R136, R137, R141). After the byte at 0xFFFF the sum does not fit the register and the spec states
no value for it: a free value (log entry 9). -/
def State.nextPtr (s : State) : Half :=
  if s.bus.bptr = 0xFFFF then Config.freeHalf s.draws else s.bus.bptr + 1

end Sys2Proof.Machine
end

