-- ==== Sys2Proof/Machine/Ops.lean ====
section
/-! DEFINITION. The named operations over memory, registers and the thread: data memory (20 R60 to R63), the model
faults and the refusal (60 R201, R202), interrupt entry and its return as one shared operation (60 R204 to R210), the
bus-controller primitives (60 R214) and the boot sequence (70 R242). -/

namespace Sys2Proof.Machine

/-- What a step answers. -/
abbrev StepOutcome := Host.Outcome State Fault Refusal

/-! ## Data memory -/

/-- The byte at an address, as last written or as given at launch (20 R61). -/
def Memory.read : Memory → Nat → Byte
  | [], _ => unlistedByte
  | (k, w) :: m, a => if k = a then w else Memory.read m a

/-- The memory with one byte set (20 R62), in the canonical form. -/
def Memory.write : Memory → Nat → Byte → Memory
  | [], a, v => if v = unlistedByte then [] else [(a, v)]
  | (k, w) :: m, a, v =>
    if a < k then (if v = unlistedByte then (k, w) :: m else (a, v) :: (k, w) :: m)
    else if a = k then (if v = unlistedByte then m else (a, v) :: m)
    else (k, w) :: Memory.write m a v

/-- The canonical form: addresses strictly rising, no entry equal to what an unlisted address reads as. -/
abbrev Memory.wf (m : Memory) : Prop :=
  m.Pairwise (fun x y => x.1 < y.1) ∧ ∀ c ∈ m, c.2 ≠ unlistedByte

/-- Every listed address lies below `n` (20 R60, with `n` = MEM_SIZE). -/
abbrev Memory.below (n : Nat) (m : Memory) : Prop := ∀ c ∈ m, c.1 < n

/-- MemRead(a, 1): none at or past MEM_SIZE, where no access is performed (20 R61, R63). -/
def State.memRead (s : State) (a : Nat) : Option Byte :=
  if a < s.params.memSize then some (s.mem.read a) else none

/-- MemWrite(a, 1, v) (20 R62). The caller has checked the address (20 R63). -/
def State.memWrite (s : State) (a : Nat) (v : Byte) : State := { s with mem := s.mem.write a v }

/-! ## The thread -/

/-- The command completes: pc moves on by its length in words, the phase stays (10 R21). -/
def State.advance (s : State) (words : Nat) : State := { s with pc := s.pc + words }

/-- TPH <- p. -/
def State.setPhase (s : State) (p : Phase) : State := { s with tph := p }

/-- A blocking command completes at a check: pc + 1 and TPH <- RUN (41 R133, 42 R164, R168). -/
def State.finishWait (s : State) : State := { s with pc := s.pc + 1, tph := .run }

/-- `raise Fault(F)` (60 R201): the first code is kept, the thread stops, pc stays. -/
def State.raise (s : State) (f : ModelFault) : State :=
  { s with fault := if s.fault = 0 then f.code else s.fault, tph := .faulted }

/-- `refuse(reason)` (60 R202): REFUSED is set and the thread stops, nothing else. -/
def State.refuse (s : State) : State := { s with refused := true, tph := .faulted }

/-- The thread has a step of its own in this phase (10 R22, 43 R183). -/
def Phase.hasStep : Phase → Bool
  | .run | .awaitCheck | .waitsCheck | .waitusPoll | .preSleep _ => true
  | .sleeping _ | .halted | .faulted => false

/-! ## Interrupts -/

/-- IE_q (10 R41). -/
def Irq.enable (r : Irq) : Source → Bool
  | .tick => r.ieTick
  | .capture => r.ieCap
  | .bus => r.ieBus

/-- IF_q (10 R42). -/
def Irq.pending (r : Irq) : Source → Bool
  | .tick => r.ifTick
  | .capture => r.ifCap
  | .bus => r.ifBus

/-- Interrupt entry for q is enabled exactly when GIE, IE_q and IF_q are 1, whatever the phase (60 R204). -/
def State.entryEnabled (s : State) (q : Source) : Bool :=
  s.irq.gie && s.irq.enable q && s.irq.pending q

/-- IF_q <- 0 (60 R205). -/
def Irq.clear (r : Irq) : Source → Irq
  | .tick => { r with ifTick := false }
  | .capture => { r with ifCap := false }
  | .bus => { r with ifBus := false }

/-- IF_q <- 0, in the state (60 R205). -/
def State.clearPending (s : State) (q : Source) : State := { s with irq := s.irq.clear q }

/-- The phase after an interrupt entry: a sleeping thread resumes, any other phase stays (60 R210). -/
def Phase.woken : Phase → Phase
  | .sleeping r => r.toPhase
  | .run => .run
  | .awaitCheck => .awaitCheck
  | .waitsCheck => .waitsCheck
  | .waitusPoll => .waitusPoll
  | .preSleep r => .preSleep r
  | .halted => .halted
  | .faulted => .faulted

/-- The return from a handler (60 R208, R210): the thread's own state is as it was, but for the wake. -/
def State.wake (s : State) : State := { s with tph := s.tph.woken }

/-- Interrupt entry for source q, the CORE agent's one atomic step (60 R205): IF_q cleared, the handler body run,
the sleeping thread woken. Nothing is saved and no vector is read. When entry is not enabled there is no step. -/
def State.enter (s : State) (q : Source) (handler : State → StepOutcome) : StepOutcome :=
  if s.entryEnabled q then
    match handler (s.clearPending q) with
    | .next t => .next t.wake
    | .fault f => .fault f
    | .refused r => .refused r
  else .refused (.entryNotEnabled q)

/-! ## The bus-controller primitives (60 R214) -/

/-- HW_START. -/
def Bus.hwStart (b : Bus) : Bus := { b with bhw := true, btrace := b.btrace ++ [.start] }

/-- HW_WRITE(v). -/
def Bus.hwWrite (b : Bus) (v : Byte) : Bus := { b with bhw := true, btrace := b.btrace ++ [.write v] }

/-- HW_STOP. A stop raises no completion event (log entry 17). -/
def Bus.hwStop (b : Bus) : Bus := { b with bhw := false, btrace := b.btrace ++ [.stop] }

/-! ## Boot (70 R242) -/

/-- One step of the boot sequence: the timer configured with TCNT = 0, then IE_TICK and IE_BUS, then GIE. -/
def State.bootStep (s : State) : State :=
  match s.boot with
  | .powerOn => { s with boot := .timerSet, clk := { s.clk with tcnt := 0 } }
  | .timerSet => { s with boot := .sourcesSet, irq := { s.irq with ieTick := true, ieBus := true } }
  | .sourcesSet => { s with boot := .launched, irq := { s.irq with gie := true } }
  | .launched => s

/-- The rest of the boot sequence, from any stage of it. -/
def State.finishBoot (s : State) : State := s.bootStep.bootStep.bootStep

end Sys2Proof.Machine
end

