-- ==== Sys2Proof/Machine/BusMaster.lean ====
section
/-! DEFINITION. The Bus Master (41): SUBMIT, AWAIT and the bus interrupt. -/

namespace Sys2Proof.Machine

/-- SUBMIT after its checks: the registers loaded, BST set to Starting, then the start asserted (41 R131). -/
def armTransaction (s : State) (addr : BitVec 7) (len base : Half) : State :=
  { s with
    bus := Bus.hwStart { s.bus with
      baddr := addr, bbase := base, blen := len, bptr := base, brem := len, bst := .starting } }

/-- SUBMIT addr, len, base: the checks of 41 R132 in their order, then 41 R131. -/
def execSubmit (addr : BitVec 7) (len base : Half) (s : State) : StepOutcome :=
  .next (if s.bus.bst.busy then s.raise .busBusy
    else if len = 0 then s.raise .busLen0
    else if s.params.memSize < base.toNat + len.toNat then s.raise .memRange
    else (armTransaction s addr len base).advance 2)

/-- The check of AWAIT, at the fetch and in phase AWAIT_CHECK (41 R133). -/
def awaitCheck (s : State) : State :=
  if s.bus.bst = .stopped then { s with res := { s.res with rsucc := true, rerr := 0 } }.finishWait
  else s.setPhase (.preSleep .awaitCheck)

/-- AWAIT (41 R133). -/
def execAwait (s : State) : StepOutcome := .next (awaitCheck s)

/-- The transition to Error: the unexpected status is latched, nothing goes to the bus (41 R140). -/
def busError (s : State) : State :=
  { s with bus := { s.bus with berr := s.bus.bstat, bst := .error } }

/-- The start was acknowledged: the address byte goes out (41 R135, R139). -/
def sendAddress (s : State) : State :=
  { s with bus := { s.bus.hwWrite (addrByte s.bus.baddr) with bst := .addressSent } }

/-- The next payload byte goes out, read from data memory at BPTR (41 R136, R137, R141). -/
def sendByte (s : State) : StepOutcome :=
  match s.memRead s.bus.bptr.toNat with
  | some b =>
    .next { s with
      bus := { s.bus.hwWrite b with bptr := s.nextPtr, brem := s.bus.brem - 1, bst := .dataSending }
      draws := s.draws + 1 }
  | none => .fault (.noSuchByte s.bus.bptr.toNat)

/-- No byte remains: the stop is asserted (41 R137). -/
def sendStop (s : State) : State :=
  { s with bus := { s.bus.hwStop with bst := .stopped } }

/-- The bus handler's body: dispatch on BST, the status in BSTAT compared with the phase's expected code
(41 R130, R134 to R138). -/
def busHandler (s : State) : StepOutcome :=
  match s.bus.bst with
  | .starting =>
    .next (if s.bus.bstat = s.params.stStart ∨ s.bus.bstat = s.params.stRepStart then sendAddress s else busError s)
  | .addressSent => if s.bus.bstat = s.params.stSlawAck then sendByte s else .next (busError s)
  | .dataSending =>
    if s.bus.bstat = s.params.stDataAck then (if s.bus.brem ≠ 0 then sendByte s else .next (sendStop s))
    else .next (busError s)
  | .idle | .stopped | .error => .next s

/-- INT_BUS (41 R134, 60 R205). -/
def execIntBus (s : State) : StepOutcome := s.enter .bus busHandler

end Sys2Proof.Machine
end

