-- ==== Sys2Proof/Machine/Capture.lean ====
section
/-! DEFINITION. The Edge Capture Decoder (40): ARM, DISARM, DECODE and the capture interrupt. -/

namespace Sys2Proof.Machine

/-- The zeroed window ARM leaves, THR loaded with THR_CONST (40 R101). -/
def freshWindow (p : Params) : Window :=
  { edgeCount := 0, lastEdge := 0, intervals := Vector.replicate 40 0, threshold := p.thrConst }

/-- ARM from an Idle window (40 R101). -/
def armWindow (s : State) : State :=
  { s with
    win := freshWindow s.params
    irq := { s.irq with
      ieCap := true
      ifCap := if s.params.armClearsCapturePending then false else s.irq.ifCap } }

/-- ARM (40 R101). -/
def execArm (s : State) : StepOutcome :=
  .next (if s.irq.ieCap then s.raise .armArmed else (armWindow s).advance 1)

/-- DISARM (40 R102). IF_CAP stays. -/
def execDisarm (s : State) : StepOutcome :=
  .next ({ s with irq := { s.irq with ieCap := false } }.advance 1)

/-- A window too short to decode: Incomplete, and two free values (40 R110, R119; log entry 10). -/
def decodeShort (s : State) : State :=
  { s with
    res := { s.res with
      rval := .incomplete
      rhum := Config.freeHalf s.draws
      rtemp := Config.freeHalf (s.draws + 1) }
    draws := s.draws + 2 }

/-- A full window decoded (40 R111 to R114). -/
def decodeFull (s : State) : State :=
  { s with
    res := { s.res with
      rval := s.win.verdict
      rhum := s.win.humidity
      rtemp := s.win.temperature } }

/-- DECODE (40 R103). -/
def execDecode (s : State) : StepOutcome :=
  .next (if s.irq.ieCap then s.raise .decodeArmed
    else if s.win.edgeCount < decodeMinEdges then (decodeShort s).advance 1
    else (decodeFull s).advance 1)

/-- EC after one more edge, wrapping at EC_BITS (40 R104, R120). -/
def nextEdgeCount (p : Params) (w : Window) : Nat := (w.edgeCount + 1) % 2 ^ p.ecBits

/-- The window after an edge with timestamp ts: the handshake, the discard and the data branch, by the count after
its increment (40 R104 to R107). -/
def recordEdge (p : Params) (ts : Half) (w : Window) : Window :=
  if nextEdgeCount p w ≤ nHandshake then { w with edgeCount := nextEdgeCount p w, lastEdge := ts }
  else if maxEdge < nextEdgeCount p w then { w with edgeCount := nextEdgeCount p w }
  else
    { w with
      edgeCount := nextEdgeCount p w
      intervals := w.intervals.setIfInBounds (nextEdgeCount p w - 3) (interval p.period ts w.lastEdge)
      lastEdge := ts }

/-- The capture handler's body (40 R104). -/
def captureHandler (s : State) : StepOutcome :=
  .next { s with win := recordEdge s.params s.clk.icr s.win }

/-- INT_CAP (40 R104, 60 R205). -/
def execIntCap (s : State) : StepOutcome := s.enter .capture captureHandler

end Sys2Proof.Machine
end

