-- ==== Sys2Proof/Machine/Environment.lean ====
section
/-! DEFINITION. The environment agents (60 R211 to R213): TIMER, LINE and BUSCTL. -/

namespace Sys2Proof.Machine

/-- EV_TCNT, the TIMER step (60 R211): the wrap raises the tick. -/
def execEvTcnt (s : State) : StepOutcome :=
  .next (if s.clk.tcnt.toNat = s.params.period - 1 then
      { s with clk := { s.clk with tcnt := 0 }, irq := { s.irq with ifTick := true } }
    else { s with clk := { s.clk with tcnt := s.clk.tcnt + 1 } })

/-- EV_EDGE, the LINE step (60 R212). -/
def execEvEdge (s : State) : StepOutcome :=
  .next { s with clk := { s.clk with icr := s.clk.tcnt }, irq := { s.irq with ifCap := true } }

/-- The completion BUSCTL delivers (60 R213). -/
def completeBus (st : Byte) (s : State) : State :=
  { s with bus := { s.bus with bstat := st, bhw := false }, irq := { s.irq with ifBus := true } }

/-- EV_BUS s, the BUSCTL step, enabled only with an operation in flight (60 R213). -/
def execEvBus (st : Byte) (s : State) : StepOutcome :=
  if s.bus.bhw then .next (completeBus st s) else .refused .noBusOperation

end Sys2Proof.Machine
end

