-- ==== Sys2Proof/Machine/Platform.lean ====
section
/-! DEFINITION. The platform primitives and caller commands (43): END, CSENTER, CSEXIT, SLEEP, STB. -/

namespace Sys2Proof.Machine

/-- END (43 R180). pc is not advanced. -/
def execEnd (s : State) : StepOutcome := .next (s.setPhase .halted)

/-- CSENTER (43 R181). -/
def execCsenter (s : State) : StepOutcome :=
  .next (if s.irq.csActive then s.raise .csNested
    else { s with irq := { s.irq with csSaved := s.irq.gie, gie := false, csActive := true } }.advance 1)

/-- CSEXIT (43 R182). -/
def execCsexit (s : State) : StepOutcome :=
  .next (if s.irq.csActive then
      { s with irq := { s.irq with gie := s.irq.csSaved, csActive := false } }.advance 1
    else s.raise .csUnbalanced)

/-- SLEEP as a command (43 R183). -/
def execSleep (s : State) : StepOutcome := .next ((s.advance 1).setPhase (.sleeping .run))

/-- The second half of AWAIT's and WAITS's loop: the wait instruction, phase PRE_SLEEP(r) (43 R183). -/
def fallAsleep (r : Resume) (s : State) : State := s.setPhase (.sleeping r)

/-- STB a, v (43 R184, R185): the range, then the borrowed bytes, then the store. -/
def execStb (a : Half) (v : Byte) (s : State) : StepOutcome :=
  .next (if s.params.memSize ≤ a.toNat then s.raise .memRange
    else if s.borrowed a.toNat then s.raise .payloadMutated
    else (s.memWrite a.toNat v).advance 1)

end Sys2Proof.Machine
end

