-- ==== Sys2Proof/Machine/Scheduler.lean ====
section
/-! DEFINITION. The Clock / Scheduler (42): NOW, WAITS, WAITUS and the tick interrupt. -/

namespace Sys2Proof.Machine

/-- NOW (42 R161). -/
def execNow (s : State) : StepOutcome :=
  .next ({ s with res := { s.res with rnow := s.clk.ticks } }.advance 1)

/-- WAITS n, the fetch step (42 R162). -/
def execWaits (n : BitVec 24) (s : State) : StepOutcome :=
  .next (if n = 0 then s.advance 1
    else { s with clk := { s.clk with wtarget := s.coarseTarget n } }.setPhase .waitsCheck)

/-- The check of WAITS, phase WAITS_CHECK: equality, not "at least" (42 R164). -/
def waitsCheck (s : State) : State :=
  if s.clk.ticks = s.clk.wtarget then s.finishWait else s.setPhase (.preSleep .waitsCheck)

/-- WAITUS n, the fetch step (42 R166, R167). -/
def execWaitus (n : BitVec 24) (s : State) : StepOutcome :=
  .next (if s.params.period < s.fineCounts n + s.params.guardBand then s.raise .fineRange
    else { s with clk := { s.clk with wlo := s.fineLow n } }.setPhase .waitusPoll)

/-- The poll of WAITUS, phase WAITUS_POLL, no sleep (42 R168). -/
def waitusPoll (s : State) : State :=
  if s.inFineWindow then s.finishWait else s.setPhase .waitusPoll

/-- The tick handler's body (42 R160). -/
def tickHandler (s : State) : StepOutcome :=
  .next { s with clk := { s.clk with ticks := (s.clk.ticks + 1) % 2 ^ s.params.tickBits } }

/-- INT_TICK (42 R160, 60 R205). -/
def execIntTick (s : State) : StepOutcome := s.enter .tick tickHandler

end Sys2Proof.Machine
end

