-- ==== Sys2Proof/Machine/Dispatch.lean ====
section
/-! DEFINITION. One arm per instruction of the opcode table (30 R88). -/

namespace Sys2Proof.Machine

def exec (i : Instr) (s : State) : Host.Outcome State Fault Refusal :=
  match i with
  | .endRun => Sys2Proof.Machine.execEnd s
  | .arm => Sys2Proof.Machine.execArm s
  | .disarm => Sys2Proof.Machine.execDisarm s
  | .decode => Sys2Proof.Machine.execDecode s
  | .submit addr len base => Sys2Proof.Machine.execSubmit addr len base s
  | .await => Sys2Proof.Machine.execAwait s
  | .waits n => Sys2Proof.Machine.execWaits n s
  | .waitus n => Sys2Proof.Machine.execWaitus n s
  | .now => Sys2Proof.Machine.execNow s
  | .csenter => Sys2Proof.Machine.execCsenter s
  | .csexit => Sys2Proof.Machine.execCsexit s
  | .sleep => Sys2Proof.Machine.execSleep s
  | .stb a v => Sys2Proof.Machine.execStb a v s
  | .evTcnt => Sys2Proof.Machine.execEvTcnt s
  | .evEdge => Sys2Proof.Machine.execEvEdge s
  | .evBus st => Sys2Proof.Machine.execEvBus st s
  | .intTick => Sys2Proof.Machine.execIntTick s
  | .intCap => Sys2Proof.Machine.execIntCap s
  | .intBus => Sys2Proof.Machine.execIntBus s

end Sys2Proof.Machine
end

