-- ==== Sys2Proof/Machine/Agents.lean ====
section
/-! DEFINITION. The agents and which of them moves (00 R14, 30 R91, R92): the thread's fetch and phase steps, the
event and entry words of a written-down run, and the free choice where no run is written down. -/

namespace Sys2Proof.Machine

/-! ## The thread -/

/-- The instruction at pc, or why there is none (30 R91). -/
def State.fetch (s : State) : Except RefuseReason Instr := fetchAt s.cl s.pc

/-- Phase RUN: fetch and start the command at pc as one step; a refusal sets REFUSED (30 R91, 60 R202). -/
def fetchStep (s : State) : StepOutcome :=
  match s.fetch with
  | .ok i => exec i s
  | .error _ => .next s.refuse

/-- The thread's step in its phase (10 R22). -/
def threadStep (s : State) : StepOutcome :=
  match s.tph with
  | .run => fetchStep s
  | .awaitCheck => .next (awaitCheck s)
  | .waitsCheck => .next (waitsCheck s)
  | .waitusPoll => .next (waitusPoll s)
  | .preSleep r => .next (fallAsleep r s)
  | .sleeping _ | .halted | .faulted => .refused .threadHasNoStep

/-! ## Event and entry words -/

/-- The event or entry an agenda word names, if it is one (30 R81, R86, R87, R92). -/
def runWord (w : Word) : Option Instr :=
  match decodeWord w none with
  | .ok i => if i.isRunWord then some i else none
  | .error _ => none

/-- One action of a run: a thread step, or the event or entry its word names (30 R92). -/
def takeAction (a : Action) (s : State) : StepOutcome :=
  match a with
  | .thread => threadStep s
  | .word w =>
    match runWord w with
    | some i => exec i s
    | none => .refused (.notARunWord w)

/-- The environment or CORE step an instruction names is enabled (60 R204, R211 to R213). -/
def eventEnabled (i : Instr) (s : State) : Bool :=
  match i with
  | .evTcnt | .evEdge => true
  | .evBus _ => s.bus.bhw
  | .intTick => s.entryEnabled .tick
  | .intCap => s.entryEnabled .capture
  | .intBus => s.entryEnabled .bus
  | .endRun | .arm | .disarm | .decode | .submit .. | .await | .waits _ | .waitus _ | .now | .csenter | .csexit
  | .sleep | .stb .. => false

/-- An agent's step is enabled (00 R14): the thread in a phase with a step, or the named event or entry. -/
def actionEnabled (a : Action) (s : State) : Bool :=
  match a with
  | .thread => s.tph.hasStep
  | .word w =>
    match runWord w with
    | some i => eventEnabled i s
    | none => false

/-- A step of TIMER, the word EV_TCNT: always enabled (60 R211). -/
def timerAction : Action := .word 0x80000000

/-- A free choice among the enabled agents (00 R14, 60 R206, R207; log entry 2). Every enabled action is the choice
for some value of the free constant; a value that names no enabled step stands for the TIMER, which always has one. -/
def freeChoice (s : State) : Action :=
  if actionEnabled (Config.freeAction s.draws) s then Config.freeAction s.draws else timerAction

/-- The action a launched machine takes next: the next one written down, or a free choice where none is. -/
def State.nextAction (s : State) : Action :=
  match s.agenda with
  | a :: _ => a
  | [] => freeChoice s

/-- One step of a launched machine: its next action, taken off the run or drawn. -/
def agentStep (s : State) : StepOutcome :=
  match s.agenda with
  | a :: rest => takeAction a { s with agenda := rest }
  | [] => takeAction (freeChoice s) { s with draws := s.draws + 1 }

/-! ## Placing an instruction where the next step fetches it -/

/-- The command list with the given words at index pc; a list that ends before pc is filled with END words. -/
def placeAt : List Word → Nat → List Word → List Word
  | cl, 0, ws => ws ++ cl.drop ws.length
  | [], n + 1, ws => 0 :: placeAt [] n ws
  | w :: cl, n + 1, ws => w :: placeAt cl n ws

/-- What the agent of an event or entry needs to have its step: the operation in flight, or the source enabled and
pending (60 R204, R213; log entry 24). -/
def State.makeEnabled (s : State) (i : Instr) : State :=
  match i with
  | .evBus _ => { s with bus := { s.bus with bhw := true } }
  | .intTick => { s with irq := { s.irq with gie := true, ieTick := true, ifTick := true } }
  | .intCap => { s with irq := { s.irq with gie := true, ieCap := true, ifCap := true } }
  | .intBus => { s with irq := { s.irq with gie := true, ieBus := true, ifBus := true } }
  | .evTcnt | .evEdge | .endRun | .arm | .disarm | .decode | .submit .. | .await | .waits _ | .waitus _ | .now
  | .csenter | .csexit | .sleep | .stb .. => s

/-- A launched machine whose next step is the thread's, fetching the given words at pc. -/
def State.placeCommand (s : State) (ws : List Word) : State :=
  { s.finishBoot with cl := placeAt s.cl s.pc ws, tph := .run, agenda := .thread :: s.agenda }

/-- A launched machine whose next step is the one the event or entry word names. -/
def State.placeRunWord (s : State) (w : Word) : State :=
  match runWord w with
  | some i => { (s.finishBoot.makeEnabled i) with agenda := .word w :: s.agenda }
  | none => { s.finishBoot with agenda := .word w :: s.agenda }

end Sys2Proof.Machine
end

