-- ==== Sys2Proof/Machine/Step.lean ====
section
/-! DEFINITION. One step of the machine, and the state with an instruction where the next step fetches it. -/

namespace Sys2Proof.Machine

/-- One step: the boot sequence until launch (70 R242), then one agent's step (00 R14). -/
def step (s : State) : Host.Outcome State Fault Refusal :=
  match s.boot with
  | .launched => agentStep s
  | .powerOn | .timerSet | .sourcesSet => .next s.bootStep

/-- The state with an instruction of the opcode table placed so that the very next step runs it (log entry 7): a
command word in the command list at pc with the thread to move, an event or entry word at the head of the agenda. -/
def State.withFetchWord (s : State) (nbits w : Nat) : State :=
  if (opField (tableWord0 nbits w)).toNat < 0x80 then s.placeCommand [tableWord0 nbits w, tableWord1 nbits w]
  else s.placeRunWord (tableWord0 nbits w)

end Sys2Proof.Machine
end

