-- ==== Sys2Proof/Machine/Registers.lean ====
section
/-! DEFINITION. The register map (10 R46): names, numbers, widths and reset values, a register's value as a number
(10 R47), and which registers the rules of each instruction write. The numbers are names only: no command addresses a
register by number. -/

namespace Sys2Proof.Machine

/-- The registers of 10 R46 that hold a number. -/
inductive RegName where
  | rval | rhum | rtemp | rsucc | rerr | rnow
  | ec | lastEdge | thr | iv (i : Fin 40)
  | bst | baddr | bbase | blen | bptr | brem | berr | bstat | bhw
  | ticks | tcnt | icr | wtarget | wlo
  | gie | ieTick | ieCap | ieBus | ifTick | ifCap | ifBus | csActive | csSaved
  | fault | refused
  deriving DecidableEq, Repr

/-- Register numbers (10 R46). -/
def RegName.number : RegName → Nat
  | .rval => 0x00
  | .rhum => 0x01
  | .rtemp => 0x02
  | .rsucc => 0x03
  | .rerr => 0x04
  | .rnow => 0x05
  | .ec => 0x10
  | .lastEdge => 0x11
  | .thr => 0x12
  | .iv i => 0x40 + i.val
  | .bst => 0x20
  | .baddr => 0x21
  | .bbase => 0x22
  | .blen => 0x23
  | .bptr => 0x24
  | .brem => 0x25
  | .berr => 0x26
  | .bstat => 0x27
  | .bhw => 0x28
  | .ticks => 0x30
  | .tcnt => 0x31
  | .icr => 0x32
  | .wtarget => 0x33
  | .wlo => 0x34
  | .gie => 0x38
  | .ieTick => 0x39
  | .ieCap => 0x3A
  | .ieBus => 0x3B
  | .ifTick => 0x3C
  | .ifCap => 0x3D
  | .ifBus => 0x3E
  | .csActive => 0x3F
  | .csSaved => 0x70
  | .fault => 0x71
  | .refused => 0x72

/-- Register widths in bits (10 R46). -/
def RegName.width (p : Params) : RegName → Nat
  | .rval => 2
  | .rnow | .ticks | .wtarget => p.tickBits
  | .ec => p.ecBits
  | .bst => 3
  | .baddr => 7
  | .rerr | .berr | .bstat => 8
  | .fault => 4
  | .rhum | .rtemp | .lastEdge | .thr | .iv _ | .bbase | .blen | .bptr | .brem | .tcnt | .icr | .wlo => 16
  | .rsucc | .bhw | .gie | .ieTick | .ieCap | .ieBus | .ifTick | .ifCap | .ifBus | .csActive | .csSaved
  | .refused => 1

/-- Reset values (10 R46, 70 R240). -/
def RegName.resetValue (p : Params) : RegName → Nat
  | .rval => 2
  | .thr => p.thrConst.toNat
  | .rhum | .rtemp | .rsucc | .rerr | .rnow | .ec | .lastEdge | .iv _ | .bst | .baddr | .bbase | .blen | .bptr
  | .brem | .berr | .bstat | .bhw | .ticks | .tcnt | .icr | .wtarget | .wlo | .gie | .ieTick | .ieCap | .ieBus
  | .ifTick | .ifCap | .ifBus | .csActive | .csSaved | .fault | .refused => 0

/-- The value a register holds, as a number in the encodings of 10 R47. -/
def State.value (s : State) : RegName → Nat
  | .rval => s.res.rval.code.toNat
  | .rhum => s.res.rhum.toNat
  | .rtemp => s.res.rtemp.toNat
  | .rsucc => s.res.rsucc.toNat
  | .rerr => s.res.rerr.toNat
  | .rnow => s.res.rnow
  | .ec => s.win.edgeCount
  | .lastEdge => s.win.lastEdge.toNat
  | .thr => s.win.threshold.toNat
  | .iv i => s.win.intervals[i].toNat
  | .bst => s.bus.bst.code.toNat
  | .baddr => s.bus.baddr.toNat
  | .bbase => s.bus.bbase.toNat
  | .blen => s.bus.blen.toNat
  | .bptr => s.bus.bptr.toNat
  | .brem => s.bus.brem.toNat
  | .berr => s.bus.berr.toNat
  | .bstat => s.bus.bstat.toNat
  | .bhw => s.bus.bhw.toNat
  | .ticks => s.clk.ticks
  | .tcnt => s.clk.tcnt.toNat
  | .icr => s.clk.icr.toNat
  | .wtarget => s.clk.wtarget
  | .wlo => s.clk.wlo.toNat
  | .gie => s.irq.gie.toNat
  | .ieTick => s.irq.ieTick.toNat
  | .ieCap => s.irq.ieCap.toNat
  | .ieBus => s.irq.ieBus.toNat
  | .ifTick => s.irq.ifTick.toNat
  | .ifCap => s.irq.ifCap.toNat
  | .ifBus => s.irq.ifBus.toNat
  | .csActive => s.irq.csActive.toNat
  | .csSaved => s.irq.csSaved.toNat
  | .fault => s.fault.toNat
  | .refused => s.refused.toNat

/-- The registers an instruction may write, its fault mark among them ("Registers written" of files 40 to 43, the
environment steps of 60 R211 to R213, interrupt entry of 60 R205). -/
def writesRegister (i : Instr) (r : RegName) : Bool :=
  match i, r with
  | .endRun, _ | .sleep, _ => false
  | .arm, .ec | .arm, .lastEdge | .arm, .thr | .arm, .iv _ | .arm, .ieCap | .arm, .ifCap | .arm, .fault => true
  | .arm, _ => false
  | .disarm, .ieCap => true
  | .disarm, _ => false
  | .decode, .rval | .decode, .rhum | .decode, .rtemp | .decode, .fault => true
  | .decode, _ => false
  | .submit .., .bst | .submit .., .baddr | .submit .., .bbase | .submit .., .blen | .submit .., .bptr
  | .submit .., .brem | .submit .., .bhw | .submit .., .fault => true
  | .submit .., _ => false
  | .await, .rsucc | .await, .rerr => true
  | .await, _ => false
  | .waits _, .wtarget => true
  | .waits _, _ => false
  | .waitus _, .wlo | .waitus _, .fault => true
  | .waitus _, _ => false
  | .now, .rnow => true
  | .now, _ => false
  | .csenter, .gie | .csenter, .csSaved | .csenter, .csActive | .csenter, .fault => true
  | .csenter, _ => false
  | .csexit, .gie | .csexit, .csActive | .csexit, .fault => true
  | .csexit, _ => false
  | .stb .., .fault => true
  | .stb .., _ => false
  | .evTcnt, .tcnt | .evTcnt, .ifTick => true
  | .evTcnt, _ => false
  | .evEdge, .icr | .evEdge, .ifCap => true
  | .evEdge, _ => false
  | .evBus _, .bstat | .evBus _, .bhw | .evBus _, .ifBus => true
  | .evBus _, _ => false
  | .intTick, .ticks | .intTick, .ifTick => true
  | .intTick, _ => false
  | .intCap, .ec | .intCap, .lastEdge | .intCap, .iv _ | .intCap, .ifCap => true
  | .intCap, _ => false
  | .intBus, .bst | .intBus, .bptr | .intBus, .brem | .intBus, .berr | .intBus, .bhw | .intBus, .ifBus => true
  | .intBus, _ => false

end Sys2Proof.Machine
end

