-- ==== Sys2Proof/Safety.lean ====
section
/-! DEFINITION. What counts as a safe run, in the terms claims use: the launch premise (70 R243), the end of a run,
its observation and a hang (70 R256), the liveness premises (60 R222), what a step leaves alone, and the invariants of the
machine. -/

namespace Sys2Proof.Machine

/-! ## Launch -/

/-- The post-boot state of 70 R242 for given parameters, command list and launch memory. -/
def State.launch (p : Params) (cl : List Word) (mem : Memory) : State := (State.powerOn p cl mem).finishBoot

/-- LAUNCH_CLEAN (70 R243): the post-boot state, with any bytes in data memory, any command list and any run. -/
def LaunchClean (s : State) : Prop :=
  s.params.Legal ∧ s.mem.wf ∧ s.mem.below s.params.memSize ∧
    s = { State.launch s.params s.cl s.mem with agenda := s.agenda, draws := s.draws }

/-! ## Runs and their end (70 R256) -/

/-- An endless run. -/
def IsRun (f : Nat → State) : Prop := ∀ k, step (f k) = .next (f (k + 1))

/-- The first n steps of f are steps of the machine. -/
def IsRunUpTo (f : Nat → State) (n : Nat) : Prop := ∀ k, k < n → step (f k) = .next (f (k + 1))

/-- A state at which a run may end successfully: HALTED without fault or refusal. Handlers and environment steps may
follow it (43 R180), so a run can have many such states; it ends at the first. -/
def State.haltedUnmarked (s : State) : Bool := decide (s.tph = .halted ∧ s.fault = 0 ∧ s.refused = false)

/-- The run f ends successfully after n steps: the state reached is the FIRST that is halted and unmarked. -/
def SuccessfulEnd (f : Nat → State) (n : Nat) : Prop :=
  IsRunUpTo f n ∧ (f n).haltedUnmarked = true ∧ ∀ k, k < n → (f k).haltedUnmarked = false

/-- A FAULTED state is a fault or a refusal, never a successful end. -/
def FailedEnd (s : State) : Prop := s.tph = .faulted

/-- The thread sleeps or waits: a blocking command has not completed, or the low-power wait has not ended (10 R22). -/
def Phase.waits : Phase → Bool
  | .awaitCheck | .waitsCheck | .waitusPoll | .preSleep _ | .sleeping _ => true
  | .run | .halted | .faulted => false

/-- A hang: an endless run in which the thread is, from some state on, sleeping or waiting for ever
(DEDUCED, log entry 25). -/
def IsHang (f : Nat → State) : Prop := IsRun f ∧ ∃ k, ∀ j, k ≤ j → (f j).tph.waits = true

/-- What is observed at a successful end: the result registers, BST, BERR, BTRACE and data memory. -/
structure Observation where
  res : Results
  bst : BusState
  berr : Byte
  btrace : List BusAction
  mem : Memory
  deriving DecidableEq, Repr

/-- What these hold in a state. -/
def State.observe (s : State) : Observation :=
  { res := s.res, bst := s.bus.bst, berr := s.bus.berr, btrace := s.bus.btrace, mem := s.mem }

/-- The observation of a run: what its first halted, unmarked state holds. Steps after END are no part of it
(43 R180). -/
def RunObserves (f : Nat → State) (o : Observation) : Prop := ∃ n, SuccessfulEnd f n ∧ o = (f n).observe

/-- The observation of the run from a state, if it ends successfully within the given number of steps. -/
def State.runObservation : Nat → State → Option Observation
  | 0, s => if s.haltedUnmarked then some s.observe else none
  | n + 1, s =>
    if s.haltedUnmarked then some s.observe
    else
      match step s with
      | .next t => State.runObservation n t
      | .fault _ => none
      | .refused _ => none

/-! ## The liveness premises (60 R222) -/

/-- Step k of a run is the event or entry i. -/
def TakesAt (f : Nat → State) (k : Nat) (i : Instr) : Prop :=
  (f k).boot = .launched ∧ ∃ w, (f k).nextAction = .word w ∧ runWord w = some i

/-- The entry word of a source (60 R203). -/
def Source.entry : Source → Instr
  | .tick => .intTick
  | .capture => .intCap
  | .bus => .intBus

/-- TIMER_LIVE: TIMER steps infinitely often. -/
def TimerLive (f : Nat → State) : Prop := ∀ k, ∃ j, k ≤ j ∧ TakesAt f j .evTcnt

/-- IRQ_FAIR: an entry that stays enabled is eventually taken. -/
def IrqFair (f : Nat → State) : Prop :=
  ∀ q k, (∀ j, k ≤ j → (f j).entryEnabled q = true) → ∃ j, k ≤ j ∧ TakesAt f j q.entry

/-- THREAD_FAIR: a thread with an enabled step eventually steps. -/
def ThreadFair (f : Nat → State) : Prop :=
  ∀ k, (∀ j, k ≤ j → (f j).tph.hasStep = true) →
    ∃ j, k ≤ j ∧ (f j).boot = .launched ∧ (f j).nextAction = .thread

/-- BUS_LIVE: every in-flight bus operation eventually completes. -/
def BusLive (f : Nat → State) : Prop :=
  ∀ k, (f k).bus.bhw = true → ∃ j st, k ≤ j ∧ TakesAt f j (.evBus st)

/-! ## Frames -/

/-- Every register outside the list holds what it held (10 R46). -/
def RegsKept (except : List RegName) (s t : State) : Prop := ∀ r, r ∉ except → t.value r = s.value r

/-- Every byte of data memory reads what it read. -/
def MemoryKept (s t : State) : Prop := ∀ a, t.mem.read a = s.mem.read a

/-- The arguments of the step relation, the run still to be taken and the boot stage are as they were. -/
def ArgumentsKept (s t : State) : Prop :=
  t.params = s.params ∧ t.cl = s.cl ∧ t.agenda = s.agenda ∧ t.boot = s.boot

/-- Nothing but the listed registers (and pc, the phase, BTRACE, data memory and the draw counter, of which a
statement speaks by itself) differs. -/
def OnlyWrites (regs : List RegName) (s t : State) : Prop := RegsKept regs s t ∧ ArgumentsKept s t

/-- A command that touches neither data memory nor the bus. -/
def QuietStep (regs : List RegName) (s t : State) : Prop :=
  OnlyWrites regs s t ∧ MemoryKept s t ∧ t.bus.btrace = s.bus.btrace

/-- The state after a model fault with this code: only FAULT and TPH differ, and an earlier code is kept
(60 R201). -/
def FaultedWith (code : BitVec 4) (s t : State) : Prop :=
  t = { s with fault := if s.fault = 0 then code else s.fault, tph := .faulted }

/-- The thread is woken if it slept, and stays in its phase otherwise (60 R205, R210). -/
def Woken (s t : State) : Prop :=
  (∀ r, s.tph = .sleeping r → t.tph = r.toPhase) ∧ ((∀ r, s.tph ≠ .sleeping r) → t.tph = s.tph)

/-- The registers IV[0..39]. -/
def ivRegs : List RegName := (List.finRange 40).map RegName.iv

/-! ## Runs of the bus (41 R142) -/

/-- One operation completed with status st, and the bus interrupt taken for it. -/
def busRound (st : Byte) (s : State) : StepOutcome :=
  match exec (.evBus st) s with
  | .next u => exec .intBus u
  | .fault f => .fault f
  | .refused r => .refused r

/-- The operations of a transaction completed one after the other with the listed statuses. -/
def busRounds : List Byte → State → StepOutcome
  | [], s => .next s
  | st :: rest, s =>
    match busRound st s with
    | .next t => busRounds rest t
    | .fault f => .fault f
    | .refused r => .refused r

/-! ## Invariants -/

/-- Data memory is in its canonical form and has MEM_SIZE bytes (20 R60). -/
def MemoryInv (s : State) : Prop := s.mem.wf ∧ s.mem.below s.params.memSize

/-- The registers hold what their widths and rules allow: the counters below 2 to their width (10 R26, R37, R44), the
timer registers below P (10 R38, R39, R44, 40 R108), the intervals at most P (40 R108). -/
def RangeInv (s : State) : Prop :=
  s.params.Legal ∧
    s.clk.ticks < 2 ^ s.params.tickBits ∧ s.clk.wtarget < 2 ^ s.params.tickBits ∧
    s.res.rnow < 2 ^ s.params.tickBits ∧ s.win.edgeCount < 2 ^ s.params.ecBits ∧
    s.clk.tcnt.toNat < s.params.period ∧ s.clk.icr.toNat < s.params.period ∧
    s.clk.wlo.toNat < s.params.period ∧ s.win.lastEdge.toNat < s.params.period ∧
    ∀ i : Fin 40, s.win.intervals[i].toNat ≤ s.params.period

/-- The transaction's registers agree with its state (41 R130 to R142, 60 R213, R214): while it is busy exactly one
of "operation in flight" and "completion pending" holds, the buffer lies in data memory and BPTR and BREM are where
the bytes sent so far leave them; otherwise nothing is in flight and nothing is pending. -/
def BusInv (s : State) : Prop :=
  s.params.Legal ∧
  match s.bus.bst with
  | .idle | .stopped | .error => s.bus.bhw = false ∧ s.irq.ifBus = false
  | .starting | .addressSent =>
    s.bus.bhw ≠ s.irq.ifBus ∧ s.bus.bbase.toNat + s.bus.blen.toNat ≤ s.params.memSize ∧
      s.bus.blen ≠ 0 ∧ s.bus.bptr = s.bus.bbase ∧ s.bus.brem = s.bus.blen
  | .dataSending =>
    s.bus.bhw ≠ s.irq.ifBus ∧ s.bus.bbase.toNat + s.bus.blen.toNat ≤ s.params.memSize ∧
      s.bus.brem.toNat < s.bus.blen.toNat ∧
      (s.bus.brem ≠ 0 → s.bus.bptr.toNat + s.bus.brem.toNat = s.bus.bbase.toNat + s.bus.blen.toNat)

/-- Interrupts are masked exactly before launch and inside a critical section, which saved them enabled; the tick and
bus sources stay enabled (10 R40, R41, R43, 43 R181, R182, 60 R208, 70 R242). -/
def InterruptInv (s : State) : Prop :=
  (s.irq.csActive = true → s.boot = .launched ∧ s.irq.gie = false ∧ s.irq.csSaved = true) ∧
    (s.irq.csActive = false → (s.irq.gie = true ↔ s.boot = .launched)) ∧
    (s.boot = .sourcesSet ∨ s.boot = .launched → s.irq.ieTick = true ∧ s.irq.ieBus = true)

/-- A thread is FAULTED exactly when one of the marks is set, never both, and FAULT holds a code of 60 R201. -/
def MarkInv (s : State) : Prop :=
  (s.tph = .faulted ↔ s.fault ≠ 0 ∨ s.refused = true) ∧ (s.fault = 0 ∨ s.refused = false) ∧ s.fault.toNat ≤ 9

end Sys2Proof.Machine
end

