-- ==== Sys2Proof/Certificates/Slice0/Obligations.lean ====
section
/-! DEFINITION. The statements for the provers, from the numbered rules of spec/. Each docstring names the rules. -/

open Sys2Proof Sys2Proof.Machine

/-! ## Encoding (30) -/

/-- 30 R82 to R89: no operand bit is dropped, for every instruction and every operand. -/
def Obligations.DecodeOfEncodeIsTheInstruction : Prop := ∀ i : Instr, decodeWords (encode i) = .ok i

/-- 30 R82 to R90: words that decode have exactly one meaning: they are the encoding of what they decode to, the
opcode alone settles the length, and a one-word instruction does not look at the word after it. -/
def Obligations.DecodedWordsAreTheEncoding : Prop :=
  ∀ (w0 w1 : Word) (i : Instr), decodeWords [w0, w1] = .ok i →
    encode i = [w0, w1].take i.length ∧ (i.length = 2 ↔ opField w0 = 0x10) ∧
      (opField w0 ≠ 0x10 → decodeWords [w0] = .ok i)

/-- 30 R95, which the spec derives from R82 to R85: the worked encodings, read both ways. -/
def Obligations.WorkedEncodings : Prop :=
  ∀ p ∈ ([(.arm, [0x01000000]), (.disarm, [0x02000000]), (.decode, [0x03000000]), (.endRun, [0x00000000]),
      (.await, [0x11000000]), (.now, [0x22000000]), (.waits 1, [0x20000001]), (.waitus 100, [0x21000064]),
      (.submit 0x27 2 0x0100, [0x104E0002, 0x00000100]), (.stb 0x0100 0x41, [0x40010041]),
      (.evBus 0x18, [0x82000018])] : List (Instr × List Word)),
    encode p.1 = p.2 ∧ decodeWords p.2 = .ok p.1

/-- 30 R91: the fetch, clause by clause, and what is performed when nothing is refused. -/
def Obligations.FetchRefusesOrRunsTheCommand : Prop :=
  ∀ s : State, s.tph = .run →
    let refused := Host.Outcome.next { s with refused := true, tph := .faulted }
    (s.cl.length ≤ s.pc → threadStep s = refused) ∧
    (∀ w, s.cl[s.pc]? = some w →
      (opField w ∉ ([0x00, 0x01, 0x02, 0x03, 0x10, 0x11, 0x20, 0x21, 0x22, 0x30, 0x31, 0x32, 0x40] : List Byte) →
        threadStep s = refused) ∧
      (opField w ∈ ([0x00, 0x01, 0x02, 0x03, 0x11, 0x22, 0x30, 0x31, 0x32] : List Byte) → operandField w ≠ 0 →
        threadStep s = refused) ∧
      (opField w = 0x10 → s.cl.length ≤ s.pc + 1 → threadStep s = refused) ∧
      (opField w = 0x10 → ∀ w1, s.cl[s.pc + 1]? = some w1 →
        w.getLsbD 16 = true ∨ w1.extractLsb' 16 16 ≠ 0 → threadStep s = refused)) ∧
    (∀ i : Instr, i.isCommand = true → (s.cl.drop s.pc).take i.length = encode i → threadStep s = exec i s)

/-! ## The step (00 R14, 30 R92, 70 R242) -/

/-- 00 R14, 30 R91, R92: a step runs the decoded instruction: the thread's command at pc in phase RUN, or the event or
entry word at the head of the written-down run; around exec the step only takes the action off that run. That the run
stands in the state is the model's choice (log entries 1, 22). -/
def Obligations.StepRunsTheDecodedInstruction : Prop :=
  (∀ (s : State) (i : Instr) (rest : List Action), s.boot = .launched → s.agenda = .thread :: rest →
    s.tph = .run → s.fetch = .ok i → step s = exec i { s with agenda := rest }) ∧
  (∀ (s : State) (w : Word) (i : Instr) (rest : List Action), s.boot = .launched → s.agenda = .word w :: rest →
    decodeWords [w] = .ok i → i.isRunWord = true → step s = exec i { s with agenda := rest })

/-- 00 R14, 60 R204, R211 to R213, 30 R92: an action has a step exactly when its agent's step is enabled; that a word
without a step is refused by name is the model's reading (log entry 12). -/
def Obligations.ExactlyTheEnabledActionsHaveAStep : Prop :=
  ∀ (a : Action) (s : State),
    (actionEnabled a s = true → ∀ r, takeAction a s ≠ .refused r) ∧
    (actionEnabled a s = false → ∃ r, takeAction a s = .refused r)

/-- 00 R14, 60 R206, R207: where no run is written down, some enabled agent steps, whatever the free choice
(log entry 2); the machine is never without a step. -/
def Obligations.FreeChoiceTakesAnEnabledAction : Prop :=
  ∀ s : State, s.boot = .launched → s.agenda = [] →
    ∃ a, actionEnabled a s = true ∧ step s = takeAction a { s with draws := s.draws + 1 }

/-- 70 R242, R243: three boot steps take the state right after reset to the launch state, which is LAUNCH_CLEAN. That
no other agent steps during boot is the model's reading (log entry 8). -/
def Obligations.BootReachesTheLaunchState : Prop :=
  ∀ (p : Params) (cl : List Word) (mem : Memory), p.Legal → mem.wf → mem.below p.memSize →
    ∃ t, Host.Core.run Sys2Proof.core 3 (State.powerOn p cl mem) = .next t ∧
      t.value .ieTick = 1 ∧ t.value .ieBus = 1 ∧ t.value .gie = 1 ∧ t.value .tcnt = 0 ∧
      (∀ r, r ∉ ([.ieTick, .ieBus, .gie] : List RegName) → t.value r = r.resetValue p) ∧
      t.pc = 0 ∧ t.tph = .run ∧ t.bus.btrace = [] ∧ t.mem = mem ∧ t.cl = cl ∧ t.boot = .launched ∧ LaunchClean t

/-- 70 R240, 10 R46: every register at its reset value, for the implementation's parameters. -/
def Obligations.ResetRegisterValues : Prop :=
  (∀ r : RegName, r ≠ .rval → r ≠ .thr → State.reset.value r = 0) ∧
  State.reset.value .rval = 2 ∧ State.reset.value .thr = State.reset.params.thrConst.toNat ∧
  State.reset.pc = 0 ∧ State.reset.tph = .run ∧ State.reset.bus.btrace = []

/-! ## The Edge Capture Decoder (40) -/

/-- 40 R101: ARM. -/
def Obligations.ArmOpensAWindow : Prop :=
  ∀ s : State,
    (s.irq.ieCap = false → ∃ t, exec .arm s = .next t ∧
      t.value .ec = 0 ∧ t.value .lastEdge = 0 ∧ (∀ i, t.value (.iv i) = 0) ∧
      t.value .thr = s.params.thrConst.toNat ∧ t.value .ieCap = 1 ∧
      t.value .ifCap = (if s.params.armClearsCapturePending then 0 else s.value .ifCap) ∧
      t.pc = s.pc + 1 ∧ t.tph = s.tph ∧
      QuietStep ([.ec, .lastEdge, .thr, .ieCap, .ifCap] ++ ivRegs) s t) ∧
    (s.irq.ieCap = true → ∃ t, exec .arm s = .next t ∧ FaultedWith 1 s t) ∧
    encode .arm = [0x01000000]

/-- 40 R102: DISARM, from either state of the window; after it no capture handler runs. -/
def Obligations.DisarmClosesTheWindow : Prop :=
  ∀ s : State, encode .disarm = [0x02000000] ∧ ∃ t, exec .disarm s = .next t ∧
    t.value .ieCap = 0 ∧ t.pc = s.pc + 1 ∧ t.tph = s.tph ∧ QuietStep [.ieCap] s t ∧
    exec .intCap t = .refused (.entryNotEnabled .capture)

/-- 40 R103, R110 to R114: DECODE: the fault while armed, Incomplete for fewer than 43 edges, and otherwise the
bits, most significant first, and the verdict of the checksum modulo 256. RHUM and RTEMP after Incomplete are free. -/
def Obligations.DecodeReadsTheWindow : Prop :=
  ∀ s : State,
    (s.irq.ieCap = true → ∃ t, exec .decode s = .next t ∧ FaultedWith 2 s t) ∧
    (s.irq.ieCap = false → s.win.edgeCount < 43 → ∃ t, exec .decode s = .next t ∧
      t.value .rval = 2 ∧ t.pc = s.pc + 1 ∧ t.tph = s.tph ∧ QuietStep [.rval, .rhum, .rtemp] s t) ∧
    (s.irq.ieCap = false → 43 ≤ s.win.edgeCount → ∃ t, exec .decode s = .next t ∧
      (∀ i : Fin 16, t.res.rhum.getLsbD (15 - i) = decide (s.win.threshold < s.win.intervals[i.val])) ∧
      (∀ i : Fin 16, t.res.rtemp.getLsbD (15 - i) = decide (s.win.threshold < s.win.intervals[16 + i.val])) ∧
      (∃ ck : Byte,
        (∀ i : Fin 8, ck.getLsbD (7 - i) = decide (s.win.threshold < s.win.intervals[32 + i.val])) ∧
        t.value .rval = (if ck.toNat = (t.value .rhum % 256 + t.value .rhum / 256 + t.value .rtemp % 256
          + t.value .rtemp / 256) % 256 then 0 else 1)) ∧
      t.pc = s.pc + 1 ∧ t.tph = s.tph ∧ QuietStep [.rval, .rhum, .rtemp] s t) ∧
    encode .decode = [0x03000000]

/-- 40 R115, which the spec derives from R111, for all 40 intervals: one equal to THR is a 0, THR = 0xFFFF makes every
bit 0, THR = 0 makes exactly the non-zero intervals 1. The last eight are the bits of the checksum, which DECODE compares
with the sum of the four bytes. -/
def Obligations.ThresholdCorners : Prop :=
  ∀ s : State, s.irq.ieCap = false → 43 ≤ s.win.edgeCount → ∃ t, exec .decode s = .next t ∧
    t.value .rval = (if s.win.checksum.toNat = (t.value .rhum % 256 + t.value .rhum / 256 + t.value .rtemp % 256
      + t.value .rtemp / 256) % 256 then 0 else 1) ∧
    (∀ i : Fin 16, s.win.intervals[i.val] = s.win.threshold → t.res.rhum.getLsbD (15 - i) = false) ∧
    (∀ i : Fin 16, s.win.intervals[16 + i.val] = s.win.threshold → t.res.rtemp.getLsbD (15 - i) = false) ∧
    (∀ i : Fin 8, s.win.intervals[32 + i.val] = s.win.threshold → s.win.checksum.getLsbD (7 - i) = false) ∧
    (s.win.threshold = 0xFFFF → t.value .rhum = 0 ∧ t.value .rtemp = 0 ∧ s.win.checksum = 0 ∧ t.value .rval = 0) ∧
    (s.win.threshold = 0 →
      (∀ i : Fin 16, t.res.rhum.getLsbD (15 - i) = decide (s.win.intervals[i.val] ≠ 0) ∧
        t.res.rtemp.getLsbD (15 - i) = decide (s.win.intervals[16 + i.val] ≠ 0)) ∧
      ∀ i : Fin 8, s.win.checksum.getLsbD (7 - i) = decide (s.win.intervals[32 + i.val] ≠ 0))

/-- 40 R117, which the spec derives from R103 and R104: DECODE depends on the window alone and leaves it alone, and while the window is Idle no instruction but
ARM writes it; so decodes with no ARM between them agree. -/
def Obligations.DecodeIsRepeatable : Prop :=
  (∀ s t : State, s.irq.ieCap = false → t.irq.ieCap = false → s.win = t.win →
    ∃ s' t', exec .decode s = .next s' ∧ exec .decode t = .next t' ∧ s'.win = s.win ∧ t'.win = t.win ∧
      s'.res.rval = t'.res.rval ∧
      (s'.res.rval ≠ .incomplete → s'.res.rhum = t'.res.rhum ∧ s'.res.rtemp = t'.res.rtemp)) ∧
  (∀ (i : Instr) (s t : State), exec i s = .next t → s.irq.ieCap = false → i ≠ .arm → t.win = s.win)

/-- 40 R108: the interval function, its corner cases and the source's worked example (for P of 15 or more, where P - 5 is
at least 10). Its ranges are the spec's own derivation there, from R38, R39 and R8; that LET plus the interval is ts modulo
P is no sentence of the spec but a consequence of the formula. -/
def Obligations.IntervalAccountsForOneWrap : Prop :=
  ∀ (p : Nat) (ts last : Half), 2 ≤ p → p ≤ 65535 → ts.toNat < p → last.toNat < p →
    (last.toNat < ts.toNat → (interval p ts last).toNat = ts.toNat - last.toNat ∧
      1 ≤ (interval p ts last).toNat ∧ (interval p ts last).toNat ≤ p - 1) ∧
    (ts.toNat ≤ last.toNat → (interval p ts last).toNat = p - (last.toNat - ts.toNat) ∧
      1 ≤ (interval p ts last).toNat ∧ (interval p ts last).toNat ≤ p) ∧
    (last.toNat + (interval p ts last).toNat) % p = ts.toNat ∧
    (interval p ts ts).toNat = p ∧
    interval p 0 (BitVec.ofNat 16 (p - 1)) = 1 ∧
    (interval p (BitVec.ofNat 16 (p - 1)) 0).toNat = p - 1 ∧
    (15 ≤ p → interval p 10 (BitVec.ofNat 16 (p - 5)) = 15)

/-- 40 R104 to R107, R120: the capture interrupt: the handshake, the discard and the data branch, by the counter
after its increment modulo 2 to its width. -/
def Obligations.CaptureEntryRecordsTheEdge : Prop :=
  ∀ s : State, s.irq.gie = true → s.irq.ieCap = true → s.irq.ifCap = true →
    ∃ t, exec .intCap s = .next t ∧
      t.value .ec = (s.value .ec + 1) % 2 ^ s.params.ecBits ∧
      (t.value .ec ≤ 2 → t.value .lastEdge = s.value .icr ∧ ∀ i, t.value (.iv i) = s.value (.iv i)) ∧
      (42 < t.value .ec → t.value .lastEdge = s.value .lastEdge ∧ ∀ i, t.value (.iv i) = s.value (.iv i)) ∧
      (3 ≤ t.value .ec → t.value .ec ≤ 42 → t.value .lastEdge = s.value .icr ∧
        ∀ i : Fin 40, t.value (.iv i) = (if i.val + 3 = t.value .ec then
          (interval s.params.period s.clk.icr s.win.lastEdge).toNat else s.value (.iv i))) ∧
      t.value .ifCap = 0 ∧ t.pc = s.pc ∧ Woken s t ∧ QuietStep ([.ec, .lastEdge, .ifCap] ++ ivRegs) s t

/-- 40 R118 (derived there) and R120: but for ARM, an instruction leaves EC alone or is a capture entry that counts one edge; short of a
wrap EC never falls. -/
def Obligations.EdgeCountOnlyCountsUp : Prop :=
  ∀ (i : Instr) (s t : State), exec i s = .next t → i ≠ .arm →
    (t.value .ec = s.value .ec ∨
      (i = .intCap ∧ t.value .ec = (s.value .ec + 1) % 2 ^ s.params.ecBits)) ∧
    (s.value .ec + 1 < 2 ^ s.params.ecBits → s.value .ec ≤ t.value .ec) ∧
    (i = .intCap → s.value .ec + 1 = 2 ^ s.params.ecBits → t.value .ec = 0 ∧ t.value .lastEdge = s.value .icr)

/-- 40 R116: the readings of RHUM and RTEMP: unsigned, and sign-magnitude with 0x8000 reading 0; the source's
examples. -/
def Obligations.OutputInterpretation : Prop :=
  (∀ raw : Half, humidityTenths raw = raw.toNat) ∧
  (∀ raw : Half, temperatureTenths raw =
    (if 32768 ≤ raw.toNat then (-1 : Int) else 1) * ((raw.toNat % 32768 : Nat) : Int)) ∧
  temperatureTenths 0x8000 = 0 ∧ temperatureTenths 0x8019 = -25 ∧ temperatureTenths 0x00C8 = 200

/-! ## The Bus Master (41) -/

/-- 41 R131, R132: SUBMIT: the three checks in their order before any effect, then the transaction armed and the
start asserted. -/
def Obligations.SubmitChecksThenStarts : Prop :=
  ∀ (s : State) (addr : BitVec 7) (len base : Half),
    let busy := s.bus.bst = .starting ∨ s.bus.bst = .addressSent ∨ s.bus.bst = .dataSending
    (busy → ∃ t, exec (.submit addr len base) s = .next t ∧ FaultedWith 3 s t) ∧
    (¬ busy → len = 0 → ∃ t, exec (.submit addr len base) s = .next t ∧ FaultedWith 4 s t) ∧
    (¬ busy → len ≠ 0 → s.params.memSize < base.toNat + len.toNat →
      ∃ t, exec (.submit addr len base) s = .next t ∧ FaultedWith 5 s t) ∧
    (¬ busy → len ≠ 0 → base.toNat + len.toNat ≤ s.params.memSize →
      ∃ t, exec (.submit addr len base) s = .next t ∧
        t.value .baddr = addr.toNat ∧ t.value .bbase = base.toNat ∧ t.value .blen = len.toNat ∧
        t.value .bptr = base.toNat ∧ t.value .brem = len.toNat ∧ t.value .bst = 1 ∧ t.value .bhw = 1 ∧
        t.bus.btrace = s.bus.btrace ++ [.start] ∧ t.pc = s.pc + 2 ∧ t.tph = s.tph ∧ MemoryKept s t ∧
        OnlyWrites [.baddr, .bbase, .blen, .bptr, .brem, .bst, .bhw] s t) ∧
    (Instr.submit addr len base).opcode = 0x10 ∧ (Instr.submit addr len base).length = 2

/-- 41 R133: AWAIT, at its fetch and again in phase AWAIT_CHECK: it completes only at Stopped. -/
def Obligations.AwaitCompletesOnlyAtStopped : Prop :=
  ∀ s : State,
    (s.bus.bst = .stopped → ∃ t, exec .await s = .next t ∧ t.value .rsucc = 1 ∧ t.value .rerr = 0 ∧
      t.pc = s.pc + 1 ∧ t.tph = .run ∧ QuietStep [.rsucc, .rerr] s t) ∧
    (s.bus.bst ≠ .stopped → exec .await s = .next { s with tph := .preSleep .awaitCheck }) ∧
    (s.tph = .awaitCheck → threadStep s = exec .await s) ∧
    encode .await = [0x11000000]

/-- 41 R135, R139: the bus interrupt in Starting. The layout of the address byte is the spec's general knowledge (R139,
log entry 16). -/
def Obligations.BusEntryInStarting : Prop :=
  ∀ s : State, s.irq.gie = true → s.irq.ieBus = true → s.irq.ifBus = true → s.bus.bst = .starting →
    (∀ a : BitVec 7, (addrByte a).toNat = 2 * a.toNat) ∧
    ∃ t, exec .intBus s = .next t ∧ t.value .ifBus = 0 ∧ t.pc = s.pc ∧ Woken s t ∧ MemoryKept s t ∧
      (s.bus.bstat = s.params.stStart ∨ s.bus.bstat = s.params.stRepStart →
        t.value .bst = 2 ∧ t.value .bhw = 1 ∧
        t.bus.btrace = s.bus.btrace ++ [.write (addrByte s.bus.baddr)] ∧ OnlyWrites [.bst, .bhw, .ifBus] s t) ∧
      (s.bus.bstat ≠ s.params.stStart → s.bus.bstat ≠ s.params.stRepStart →
        t.value .bst = 5 ∧ t.value .berr = s.value .bstat ∧ t.bus.btrace = s.bus.btrace ∧
        OnlyWrites [.bst, .berr, .ifBus] s t)

/-- 41 R136, R141: the bus interrupt in AddressSent. BPTR after the byte at 0xFFFF is the model's free value (log entry
9), and the stop on a read outside data memory is the model's (log entry 13); no run reaches it. -/
def Obligations.BusEntryInAddressSent : Prop :=
  ∀ s : State, s.irq.gie = true → s.irq.ieBus = true → s.irq.ifBus = true → s.bus.bst = .addressSent →
    (s.bus.bstat = s.params.stSlawAck → s.bus.bptr.toNat < s.params.memSize →
      ∃ t, exec .intBus s = .next t ∧ t.value .ifBus = 0 ∧ t.pc = s.pc ∧ Woken s t ∧ MemoryKept s t ∧
        t.value .bst = 3 ∧ t.value .bhw = 1 ∧
        t.bus.btrace = s.bus.btrace ++ [.write (s.mem.read s.bus.bptr.toNat)] ∧
        (s.bus.bptr ≠ 0xFFFF → t.value .bptr = s.value .bptr + 1) ∧
        (s.bus.brem ≠ 0 → t.value .brem = s.value .brem - 1) ∧
        OnlyWrites [.bst, .bhw, .bptr, .brem, .ifBus] s t) ∧
    (s.bus.bstat = s.params.stSlawAck → s.params.memSize ≤ s.bus.bptr.toNat →
      exec .intBus s = .fault (.noSuchByte s.bus.bptr.toNat)) ∧
    (s.bus.bstat ≠ s.params.stSlawAck →
      ∃ t, exec .intBus s = .next t ∧ t.value .ifBus = 0 ∧ t.pc = s.pc ∧ Woken s t ∧ MemoryKept s t ∧
        t.value .bst = 5 ∧ t.value .berr = s.value .bstat ∧ t.bus.btrace = s.bus.btrace ∧
        OnlyWrites [.bst, .berr, .ifBus] s t)

/-- 41 R137, R141, 60 R214: the bus interrupt in DataSending. The two model choices of the statement before hold here too
(log entries 9, 13). That nothing is in flight after the stop, BHW = 0, is the spec's general knowledge (R214, log entry
17). -/
def Obligations.BusEntryInDataSending : Prop :=
  ∀ s : State, s.irq.gie = true → s.irq.ieBus = true → s.irq.ifBus = true → s.bus.bst = .dataSending →
    (s.bus.bstat = s.params.stDataAck → s.bus.brem ≠ 0 → s.bus.bptr.toNat < s.params.memSize →
      ∃ t, exec .intBus s = .next t ∧ t.value .ifBus = 0 ∧ t.pc = s.pc ∧ Woken s t ∧ MemoryKept s t ∧
        t.value .bst = 3 ∧ t.value .bhw = 1 ∧
        t.bus.btrace = s.bus.btrace ++ [.write (s.mem.read s.bus.bptr.toNat)] ∧
        (s.bus.bptr ≠ 0xFFFF → t.value .bptr = s.value .bptr + 1) ∧ t.value .brem = s.value .brem - 1 ∧
        OnlyWrites [.bhw, .bptr, .brem, .ifBus] s t) ∧
    (s.bus.bstat = s.params.stDataAck → s.bus.brem ≠ 0 → s.params.memSize ≤ s.bus.bptr.toNat →
      exec .intBus s = .fault (.noSuchByte s.bus.bptr.toNat)) ∧
    (s.bus.bstat = s.params.stDataAck → s.bus.brem = 0 →
      ∃ t, exec .intBus s = .next t ∧ t.value .ifBus = 0 ∧ t.pc = s.pc ∧ Woken s t ∧ MemoryKept s t ∧
        t.value .bst = 4 ∧ t.value .bhw = 0 ∧ t.bus.btrace = s.bus.btrace ++ [.stop] ∧
        OnlyWrites [.bst, .bhw, .ifBus] s t) ∧
    (s.bus.bstat ≠ s.params.stDataAck →
      ∃ t, exec .intBus s = .next t ∧ t.value .ifBus = 0 ∧ t.pc = s.pc ∧ Woken s t ∧ MemoryKept s t ∧
        t.value .bst = 5 ∧ t.value .berr = s.value .bstat ∧ t.bus.btrace = s.bus.btrace ∧
        OnlyWrites [.bst, .berr, .ifBus] s t)

/-- 41 R138: the bus interrupt in Idle, Stopped and Error does nothing beyond the entry. -/
def Obligations.BusEntryInTerminalStates : Prop :=
  ∀ s : State, s.irq.gie = true → s.irq.ieBus = true → s.irq.ifBus = true →
    s.bus.bst = .idle ∨ s.bus.bst = .stopped ∨ s.bus.bst = .error →
    ∃ t, exec .intBus s = .next t ∧ t.value .ifBus = 0 ∧ t.pc = s.pc ∧ Woken s t ∧ QuietStep [.ifBus] s t

/-- 41 R140: every transition to Error, and no other, latches the status in BERR; after Error nothing goes to the bus
until a fresh SUBMIT. -/
def Obligations.ErrorLatchesTheStatus : Prop :=
  ∀ (i : Instr) (s t : State), exec i s = .next t →
    (s.bus.bst ≠ .error → t.bus.bst = .error → t.bus.berr = s.bus.bstat) ∧
    (t.bus.berr ≠ s.bus.berr → s.bus.bst ≠ .error ∧ t.bus.bst = .error) ∧
    (s.bus.bst = .error → (∀ a l b, i ≠ .submit a l b) → t.bus.btrace = s.bus.btrace ∧ t.bus.bst = .error)

/-- 41 R130, 10 R31: BST moves only by SUBMIT and by the bus interrupt, along the transitions of the table. -/
def Obligations.BusStateFollowsTheTable : Prop :=
  ∀ (i : Instr) (s t : State), exec i s = .next t →
    t.bus.bst = s.bus.bst ∨
    ((∃ a l b, i = .submit a l b) ∧ s.bus.bst ∈ ([.idle, .stopped, .error] : List BusState) ∧
      t.bus.bst = .starting) ∨
    (i = .intBus ∧ (s.bus.bst, t.bus.bst) ∈ ([(.starting, .addressSent), (.starting, .error),
      (.addressSent, .dataSending), (.addressSent, .error), (.dataSending, .stopped), (.dataSending, .error)]
        : List (BusState × BusState)))

/-- 41 R142 (1), which the spec derives: a transaction of len bytes whose operations are all acknowledged puts exactly START, the
address byte, the payload bytes in address order and STOP on the bus, in len + 2 bus interrupts. The layout of the address
byte (R139, log entry 16) and BHW = 0 after the stop (R214, log entry 17) are the spec's general knowledge. -/
def Obligations.AcknowledgedTransactionSendsThePayload : Prop :=
  ∀ (s : State) (addr : BitVec 7) (len base : Half) (st0 : Byte),
    s.params.Legal → s.irq.gie = true → s.irq.ieBus = true →
    s.bus.bst = .idle ∨ s.bus.bst = .stopped ∨ s.bus.bst = .error →
    len ≠ 0 → base.toNat + len.toNat ≤ s.params.memSize →
    st0 = s.params.stStart ∨ st0 = s.params.stRepStart →
    ∃ u t, exec (.submit addr len base) s = .next u ∧
      busRounds (st0 :: s.params.stSlawAck :: List.replicate len.toNat s.params.stDataAck) u = .next t ∧
      t.bus.btrace = s.bus.btrace ++ [.start, .write (addrByte addr)]
        ++ (List.range len.toNat).map (fun k => BusAction.write (s.mem.read (base.toNat + k))) ++ [.stop] ∧
      t.bus.bst = .stopped ∧ t.bus.brem = 0 ∧ t.bus.bhw = false ∧ t.bus.berr = s.bus.berr ∧ MemoryKept s t

/-- 41 R142 (2), which the spec derives, and 70 R250: after Error no operation is in flight, no bus interrupt is pending, and AWAIT does not
complete. -/
def Obligations.AfterErrorTheBusIsSilent : Prop :=
  ∀ s : State, BusInv s → s.bus.bst = .error →
    (∀ st, exec (.evBus st) s = .refused .noBusOperation) ∧
    exec .intBus s = .refused (.entryNotEnabled .bus) ∧
    exec .await s = .next { s with tph := .preSleep .awaitCheck } ∧
    ∀ (i : Instr) (t : State), exec i s = .next t → (∀ a l b, i ≠ .submit a l b) → t.bus = s.bus

/-! ## The Clock / Scheduler (42) -/

/-- 42 R160: the tick interrupt counts one tick, wrapping at TICK_BITS, and does nothing else. -/
def Obligations.TickEntryCountsOneTick : Prop :=
  ∀ s : State, s.irq.gie = true → s.irq.ieTick = true → s.irq.ifTick = true →
    ∃ t, exec .intTick s = .next t ∧ t.value .ticks = (s.value .ticks + 1) % 2 ^ s.params.tickBits ∧
      t.value .ifTick = 0 ∧ t.pc = s.pc ∧ Woken s t ∧ QuietStep [.ticks, .ifTick] s t

/-- 42 R161: NOW. -/
def Obligations.NowReadsTheTicks : Prop :=
  ∀ s : State, encode .now = [0x22000000] ∧ ∃ t, exec .now s = .next t ∧ t.value .rnow = s.value .ticks ∧
    t.pc = s.pc + 1 ∧ t.tph = s.tph ∧ QuietStep [.rnow] s t

/-- 42 R162, R163: WAITS n: no wait for n = 0, else the target modulo 2 to TICK_BITS. -/
def Obligations.WaitsSetsTheTarget : Prop :=
  ∀ (s : State) (n : BitVec 24),
    (n = 0 → exec (.waits n) s = .next { s with pc := s.pc + 1 }) ∧
    (n ≠ 0 → ∃ t, exec (.waits n) s = .next t ∧
      t.value .wtarget = (s.value .ticks + n.toNat * 100) % 2 ^ s.params.tickBits ∧
      t.tph = .waitsCheck ∧ t.pc = s.pc ∧ QuietStep [.wtarget] s t) ∧
    n.toNat * 100 < 2 ^ 31 ∧ encode (.waits n) = [0x20000000 ||| n.setWidth 32]

/-- 42 R164: the check of WAITS is equality; a failed check goes to the wait. -/
def Obligations.WaitsCompletesAtEquality : Prop :=
  ∀ s : State, s.tph = .waitsCheck →
    (s.clk.ticks = s.clk.wtarget → threadStep s = .next { s with pc := s.pc + 1, tph := .run }) ∧
    (s.clk.ticks ≠ s.clk.wtarget → threadStep s = .next { s with tph := .preSleep .waitsCheck })

/-- 42 R166, R167: WAITUS n: the range fault before any effect, else the low end of the window. -/
def Obligations.WaitusSetsTheWindow : Prop :=
  ∀ (s : State) (n : BitVec 24), s.params.Legal →
    (s.params.period < s.params.usToCounts.counts n + s.params.guardBand →
      ∃ t, exec (.waitus n) s = .next t ∧ FaultedWith 9 s t) ∧
    (s.params.usToCounts.counts n + s.params.guardBand ≤ s.params.period →
      ∃ t, exec (.waitus n) s = .next t ∧
        t.value .wlo = (s.value .tcnt + s.params.usToCounts.counts n) % s.params.period ∧
        t.tph = .waitusPoll ∧ t.pc = s.pc ∧ QuietStep [.wlo] s t) ∧
    encode (.waitus n) = [0x21000000 ||| n.setWidth 32]

/-- 42 R168: the poll completes exactly when TCNT lies in [WLO, WLO + GUARD) modulo P, a window that may straddle the
wrap; otherwise it polls again without sleeping. -/
def Obligations.WaitusPollsTheWindow : Prop :=
  ∀ s : State, s.tph = .waitusPoll → s.params.Legal →
    s.value .tcnt < s.params.period → s.value .wlo < s.params.period →
    let inside := (s.value .wlo ≤ s.value .tcnt ∧ s.value .tcnt < s.value .wlo + s.params.guardBand) ∨
      (s.value .tcnt < s.value .wlo ∧ s.value .tcnt + s.params.period < s.value .wlo + s.params.guardBand)
    (inside → threadStep s = .next { s with pc := s.pc + 1, tph := .run }) ∧
    (¬ inside → threadStep s = .next s)

/-- 42 R169 (2), which the spec derives: a fine delay of at least one count does not complete at the TCNT of its fetch. -/
def Obligations.FineDelayLastsAtLeastOneCount : Prop :=
  ∀ (s : State) (n : BitVec 24), s.params.Legal → s.value .tcnt < s.params.period →
    0 < s.params.usToCounts.counts n → s.params.usToCounts.counts n + s.params.guardBand ≤ s.params.period →
    ∃ t, exec (.waitus n) s = .next t ∧ threadStep t = .next t

/-! ## Platform primitives and caller commands (43) -/

/-- 43 R180, 70 R256: END; after it the thread has no step, and a run without fault or refusal whose step n is END ends
there, at the first halted state, with what its registers held: no later step is part of the observation. -/
def Obligations.EndHaltsTheThread : Prop :=
  (∀ s : State, encode .endRun = [0x00000000] ∧ exec .endRun s = .next { s with tph := .halted } ∧
    (s.tph = .halted → threadStep s = .refused .threadHasNoStep)) ∧
  ∀ (f : Nat → State) (n : Nat), IsRunUpTo f (n + 1) → (f n).boot = .launched → (f n).nextAction = .thread →
    (f n).tph = .run → (f n).fetch = .ok .endRun → (f n).fault = 0 → (f n).refused = false →
    SuccessfulEnd f (n + 1) ∧ ∀ o, RunObserves f o ↔ o = (f n).observe

/-- 43 R181: CSENTER. -/
def Obligations.CsenterMasksInterrupts : Prop :=
  ∀ s : State,
    (s.irq.csActive = false → ∃ t, exec .csenter s = .next t ∧ t.value .csSaved = s.value .gie ∧
      t.value .gie = 0 ∧ t.value .csActive = 1 ∧ t.pc = s.pc + 1 ∧ t.tph = s.tph ∧
      QuietStep [.csSaved, .gie, .csActive] s t) ∧
    (s.irq.csActive = true → ∃ t, exec .csenter s = .next t ∧ FaultedWith 7 s t) ∧
    encode .csenter = [0x30000000]

/-- 43 R182: CSEXIT. -/
def Obligations.CsexitRestoresInterrupts : Prop :=
  ∀ s : State,
    (s.irq.csActive = true → ∃ t, exec .csexit s = .next t ∧ t.value .gie = s.value .csSaved ∧
      t.value .csActive = 0 ∧ t.pc = s.pc + 1 ∧ t.tph = s.tph ∧ QuietStep [.gie, .csActive] s t) ∧
    (s.irq.csActive = false → ∃ t, exec .csexit s = .next t ∧ FaultedWith 8 s t) ∧
    encode .csexit = [0x31000000]

/-- 10 R43, 20 R73, 43 R181, R182: a critical section gives the interrupt enable back as it was, and no interrupt is
taken inside it. -/
def Obligations.CriticalSectionRoundTrip : Prop :=
  ∀ s : State, s.irq.csActive = false → ∃ t u, exec .csenter s = .next t ∧
    (∀ q : Source, exec q.entry t = .refused (.entryNotEnabled q)) ∧
    exec .csexit t = .next u ∧ u.value .gie = s.value .gie ∧ u.pc = s.pc + 2 ∧ u.tph = s.tph ∧
    QuietStep [.csSaved] s u

/-- 43 R183: SLEEP as a command, and the wait instruction of the AWAIT and WAITS loops; a sleeping thread has no step
of its own, an interrupt entry of any source wakes it, and an environment step does not. -/
def Obligations.SleepWaitsForAnInterrupt : Prop :=
  ∀ s : State,
    exec .sleep s = .next { s with pc := s.pc + 1, tph := .sleeping .run } ∧
    (∀ r, s.tph = .preSleep r → threadStep s = .next { s with tph := .sleeping r }) ∧
    (∀ r, s.tph = .sleeping r → threadStep s = .refused .threadHasNoStep ∧
      (∀ (q : Source) (t : State), exec q.entry s = .next t → t.tph = r.toPhase) ∧
      (∀ (i : Instr) (t : State), i.space = .event → exec i s = .next t → t.tph = .sleeping r)) ∧
    encode .sleep = [0x32000000]

/-- 43 R184, R185: STB: the range, then the borrowed bytes, then one byte of memory, for any memory in the model's
canonical form (an invariant of every step). -/
def Obligations.StbWritesOneByte : Prop :=
  ∀ (s : State) (a : Half) (v : Byte), MemoryInv s →
    let borrowed := (s.bus.bst = .starting ∨ s.bus.bst = .addressSent ∨ s.bus.bst = .dataSending) ∧
      s.value .bbase ≤ a.toNat ∧ a.toNat < s.value .bbase + s.value .blen
    (s.params.memSize ≤ a.toNat → ∃ t, exec (.stb a v) s = .next t ∧ FaultedWith 5 s t) ∧
    (a.toNat < s.params.memSize → borrowed → ∃ t, exec (.stb a v) s = .next t ∧ FaultedWith 6 s t) ∧
    (a.toNat < s.params.memSize → ¬ borrowed → ∃ t, exec (.stb a v) s = .next t ∧
      t.mem.read a.toNat = v ∧ (∀ b, b ≠ a.toNat → t.mem.read b = s.mem.read b) ∧
      t.pc = s.pc + 1 ∧ t.tph = s.tph ∧ t.bus.btrace = s.bus.btrace ∧ OnlyWrites [] s t)

/-! ## Interrupts and environment (60) -/

/-- 60 R204: entry is enabled exactly when GIE, IE_q and IF_q are 1, whatever the thread phase. -/
def Obligations.EntryNeedsAllThreeBits : Prop :=
  ∀ s : State,
    ((¬ (s.value .gie = 1 ∧ s.value .ieTick = 1 ∧ s.value .ifTick = 1) ↔
      exec .intTick s = .refused (.entryNotEnabled .tick))) ∧
    ((¬ (s.value .gie = 1 ∧ s.value .ieCap = 1 ∧ s.value .ifCap = 1) ↔
      exec .intCap s = .refused (.entryNotEnabled .capture))) ∧
    ((¬ (s.value .gie = 1 ∧ s.value .ieBus = 1 ∧ s.value .ifBus = 1) ↔
      exec .intBus s = .refused (.entryNotEnabled .bus)))

/-- 60 R205, R208, R210: an interrupt entry saves nothing and leaves the thread's pc, results and marks, the enables
and the other pending flags alone; a sleeping thread is woken, any other phase stays. -/
def Obligations.EntryKeepsTheThread : Prop :=
  ∀ (q : Source) (s t : State), exec q.entry s = .next t →
    t.irq.pending q = false ∧ (∀ q', q' ≠ q → t.irq.pending q' = s.irq.pending q') ∧
    (∀ q', t.irq.enable q' = s.irq.enable q') ∧ t.irq.gie = s.irq.gie ∧ s.irq.gie = true ∧
    t.irq.csActive = s.irq.csActive ∧ t.irq.csSaved = s.irq.csSaved ∧
    t.pc = s.pc ∧ t.res = s.res ∧ t.fault = s.fault ∧ t.refused = s.refused ∧ t.mem = s.mem ∧
    ArgumentsKept s t ∧ Woken s t

/-- 60 R211: the TIMER step. -/
def Obligations.TimerStepCountsAndWraps : Prop :=
  ∀ s : State, s.params.Legal → s.value .tcnt < s.params.period →
    ∃ t, exec .evTcnt s = .next t ∧ t.pc = s.pc ∧ t.tph = s.tph ∧
      (s.value .tcnt = s.params.period - 1 → t.value .tcnt = 0 ∧ t.value .ifTick = 1 ∧
        QuietStep [.tcnt, .ifTick] s t) ∧
      (s.value .tcnt ≠ s.params.period - 1 → t.value .tcnt = s.value .tcnt + 1 ∧ QuietStep [.tcnt] s t)

/-- 60 R212: the LINE step, whether or not the window is armed or an edge is pending. -/
def Obligations.LineStepLatchesTheTimer : Prop :=
  ∀ s : State, ∃ t, exec .evEdge s = .next t ∧ t.value .icr = s.value .tcnt ∧ t.value .ifCap = 1 ∧
    t.pc = s.pc ∧ t.tph = s.tph ∧ QuietStep [.icr, .ifCap] s t

/-- 60 R213: the BUSCTL step, for any status, exactly while an operation is in flight. -/
def Obligations.BusctlStepCompletesTheOperation : Prop :=
  ∀ (s : State) (st : Byte),
    (s.bus.bhw = true → ∃ t, exec (.evBus st) s = .next t ∧ t.value .bstat = st.toNat ∧ t.value .ifBus = 1 ∧
      t.value .bhw = 0 ∧ t.pc = s.pc ∧ t.tph = s.tph ∧ QuietStep [.bstat, .ifBus, .bhw] s t) ∧
    (s.bus.bhw = false → exec (.evBus st) s = .refused .noBusOperation)

/-! ## The whole machine -/

/-- 10 R23 to R46, 60 R215: no instruction writes a register its rules do not name. -/
def Obligations.OnlyTheNamedRegistersAreWritten : Prop :=
  ∀ (i : Instr) (s t : State) (r : RegName), exec i s = .next t → writesRegister i r = false → t.value r = s.value r

/-- 20 R60, R62, R64: no byte of data memory changes but by a STB to its address. -/
def Obligations.OnlyStbWritesMemory : Prop :=
  ∀ (i : Instr) (s t : State) (b : Nat), exec i s = .next t → (∀ a v, i = .stb a v → a.toNat ≠ b) →
    t.mem.read b = s.mem.read b

/-- 10 R36: a step appends at most one action to BTRACE and never changes what stands there. -/
def Obligations.BusTraceOnlyGrows : Prop :=
  ∀ s t : State, step s = .next t → ∃ l, t.bus.btrace = s.bus.btrace ++ l ∧ l.length ≤ 1

/-- 20 R77: while a transaction is busy no step writes a byte of its buffer. -/
def Obligations.BorrowedPayloadIsStable : Prop :=
  ∀ s t : State, step s = .next t →
    s.bus.bst = .starting ∨ s.bus.bst = .addressSent ∨ s.bus.bst = .dataSending →
    ∀ a, s.value .bbase ≤ a → a < s.value .bbase + s.value .blen → t.mem.read a = s.mem.read a

/-- 10 R22, 60 R210, 43 R183: HALTED and FAULTED are left by nobody, and SLEEPING only by an interrupt entry: the action
taken is then the word of an entry that is enabled. -/
def Obligations.PhasesAreLeftByTheirOwners : Prop :=
  ∀ s t : State, step s = .next t →
    (s.tph = .halted → t.tph = .halted) ∧ (s.tph = .faulted → t.tph = .faulted) ∧
    (∀ r, s.tph = .sleeping r → t.tph = .sleeping r ∨
      (t.tph = r.toPhase ∧ s.boot = .launched ∧
        ∃ q w, s.nextAction = .word w ∧ runWord w = some q.entry ∧ s.entryEnabled q = true))

/-- 10 R45, 60 R201, R202: the first fault code stays, and a refusal stays. -/
def Obligations.MarksAreSticky : Prop :=
  ∀ s t : State, step s = .next t →
    (s.fault ≠ 0 → t.fault = s.fault) ∧ (s.refused = true → t.refused = true)

/-- 10 R20, R21, 20 R75: no step changes the parameters or the command list, which the model carries in the state (log
entry 3). -/
def Obligations.ArgumentsNeverChange : Prop :=
  ∀ s t : State, step s = .next t → t.params = s.params ∧ t.cl = s.cl

/-! ## Invariants -/

/-- 20 R60 to R63: data memory stays in its canonical form and inside MEM_SIZE. -/
def Obligations.StepKeepsMemoryCanonical : Prop := ∀ s t : State, MemoryInv s → step s = .next t → MemoryInv t

/-- 10 R26, R37 to R39, R44, 40 R108: every register stays in its range. -/
def Obligations.StepKeepsRegistersInRange : Prop := ∀ s t : State, RangeInv s → step s = .next t → RangeInv t

/-- 41 R130 to R142, 60 R213, R214: the transaction's registers stay consistent. That nothing is in flight or pending in
Stopped rests on the spec's general knowledge that a stop raises no completion event (R214, log entry 17). -/
def Obligations.StepKeepsTheTransactionConsistent : Prop := ∀ s t : State, BusInv s → step s = .next t → BusInv t

/-- 20 R63, whose sentence on bus-handler reads is the spec's own derivation from R132 and R141: from a consistent
transaction no step reads outside data memory. The fault that would stop such a read is the model's (log entry 13). -/
def Obligations.NoStepFaults : Prop := ∀ (s : State) (f : Fault), BusInv s → step s ≠ .fault f

/-- 10 R40 to R43, 60 R208, 70 R242: interrupts are masked exactly before launch and in a critical section. -/
def Obligations.StepKeepsInterruptDiscipline : Prop :=
  ∀ s t : State, InterruptInv s → step s = .next t → InterruptInv t

/-- 60 R201, R202, 10 R45: FAULTED goes with exactly one mark. -/
def Obligations.StepKeepsMarksAndPhaseTogether : Prop := ∀ s t : State, MarkInv s → step s = .next t → MarkInv t

/-- 70 R240, 00 R8: the invariants hold right after reset, whatever the implementation's parameters. -/
def Obligations.ResetMeetsTheInvariants : Prop :=
  MemoryInv State.reset ∧ RangeInv State.reset ∧ BusInv State.reset ∧ InterruptInv State.reset ∧ MarkInv State.reset
end

