-- ==== Sys2Proof/Laws/Decode.lean ====
section
/-! SUPPORT. What decoding can answer: the format lemmas, and that the opcode field settles the instruction's opcode
and space (30 R81, R88). -/

namespace Sys2Proof

/-- A format N word decodes to the row's instruction or to nothing. -/
theorem decodeN_ok {w : Word} {i j : Instr} (h : decodeN w i = .ok j) : operandField w = 0 ∧ j = i := by
  unfold decodeN at h
  split at h
  · injection h with h; exact ⟨by assumption, h.symm⟩
  · cases h

/-- A format B pair decodes to SUBMIT with its three fields, the reserved bits being 0. -/
theorem decodeB_ok {w : Word} {tail : Option Word} {j : Instr} (h : decodeB w tail = .ok j) :
    ∃ w1, tail = some w1 ∧ w.getLsbD 16 = false ∧ w1.extractLsb' 16 16 = 0 ∧
      j = .submit (w.extractLsb' 17 7) (w.extractLsb' 0 16) (w1.extractLsb' 0 16) := by
  unfold decodeB at h
  split at h
  · cases h
  · split at h
    · cases h
    · rename_i w1 hr
      injection h with h
      simp only [not_or, Bool.not_eq_true, ne_eq, not_not] at hr
      exact ⟨w1, rfl, hr.1, hr.2, h.symm⟩

/-- A word of format E with a status decodes to EV_BUS, the reserved bits being 0. -/
theorem decodeE_ok {w : Word} {j : Instr} (h : decodeE w = .ok j) :
    w.extractLsb' 8 16 = 0 ∧ j = .evBus (w.extractLsb' 0 8) := by
  unfold decodeE at h
  split at h
  · injection h with h; exact ⟨by assumption, h.symm⟩
  · cases h

/-- A bit of a word put together from an opcode and an operand field (30 R80). -/
theorem getLsbD_encodeOp (op : Byte) (x : BitVec 24) (i : Nat) :
    (encodeOp op x).getLsbD i = if i < 24 then x.getLsbD i else op.getLsbD (i - 24) := by
  by_cases h : i < 24
  · simp [encodeOp, h, show i < 32 by omega]
  · by_cases h' : i < 32
    · simp [encodeOp, h, h', BitVec.getLsbD_of_ge x i (by omega)]
    · simp [encodeOp, h, h', BitVec.getLsbD_of_ge op (i - 24) (by omega)]

/-- A field inside the operand field of such a word is that field of the operand. -/
theorem extractLsb'_encodeOp (op : Byte) (x : BitVec 24) (start len : Nat) (h : start + len ≤ 24) :
    (encodeOp op x).extractLsb' start len = x.extractLsb' start len := by
  apply BitVec.eq_of_getLsbD_eq
  intro i hi
  rw [BitVec.getLsbD_extractLsb', BitVec.getLsbD_extractLsb', getLsbD_encodeOp, if_pos (by omega)]

/-- The opcode field of a word put together from an opcode and an operand field. -/
@[simp] theorem opField_encodeOp (op : Byte) (x : BitVec 24) : opField (encodeOp op x) = op := by
  apply BitVec.eq_of_getLsbD_eq
  intro i hi
  simp [opField, encodeOp, hi, show 24 + i < 32 by omega]

/-- The operand field of such a word. -/
@[simp] theorem operandField_encodeOp (op : Byte) (x : BitVec 24) : operandField (encodeOp op x) = x := by
  apply BitVec.eq_of_getLsbD_eq
  intro i hi
  simp [operandField, encodeOp, hi, show i < 32 by omega]

/-- A word is its opcode field and its operand field. -/
theorem encodeOp_fields (w : Word) : encodeOp (opField w) (operandField w) = w := by
  apply BitVec.eq_of_getLsbD_eq
  intro i hi
  by_cases h : i < 24
  · simp [opField, operandField, encodeOp, hi, h]
  · simp [opField, operandField, encodeOp, hi, h, show 24 + (i - 24) = i by omega,
      show i - 24 < 8 by omega]

/-- The opcode field is the decoded instruction's opcode (30 R88). -/
theorem decodeWord_opcode {w : Word} {tail : Option Word} {i : Instr} (h : decodeWord w tail = .ok i) :
    opField w = i.opcode := by
  apply BitVec.eq_of_toNat_eq
  unfold decodeWord at h
  split at h
  case h_5 => obtain ⟨_, _, _, _, rfl⟩ := decodeB_ok h; assumption
  case h_7 => injection h with h; subst h; assumption
  case h_8 => injection h with h; subst h; assumption
  case h_13 => injection h with h; subst h; assumption
  case h_16 => obtain ⟨_, rfl⟩ := decodeE_ok h; assumption
  case h_20 => cases h
  all_goals
    obtain ⟨_, rfl⟩ := decodeN_ok h
    assumption

/-- A thread command's opcode is one a command list may hold, and no other instruction's is (30 R81, R91). -/
theorem opcode_mem_commandOpcodes (i : Instr) : i.opcode ∈ commandOpcodes ↔ i.isCommand = true := by
  cases i <;> simp [Instr.opcode, commandOpcodes, Instr.isCommand, Instr.space]

/-- What a fetch answers is a thread command (30 R91). -/
theorem fetchAt_isCommand {cl : List Word} {pc : Nat} {i : Instr} (h : fetchAt cl pc = .ok i) :
    i.isCommand = true := by
  unfold fetchAt at h
  split at h
  · cases h
  · split at h
    · rename_i hc
      rw [← opcode_mem_commandOpcodes, ← decodeWord_opcode h]
      simpa using hc
    · cases h

end Sys2Proof
end

