-- ==== Sys2Proof/Laws/State.lean ====
section
/-! SUPPORT. What each named update of the state does to each field: one lemma a field, true by unfolding, so that no
later proof unfolds an update. -/

namespace Sys2Proof.Machine

variable (s : State)

/-! ## advance -/

@[simp] theorem State.advance_params (n : Nat) : (s.advance n).params = s.params := rfl
@[simp] theorem State.advance_cl (n : Nat) : (s.advance n).cl = s.cl := rfl
@[simp] theorem State.advance_agenda (n : Nat) : (s.advance n).agenda = s.agenda := rfl
@[simp] theorem State.advance_boot (n : Nat) : (s.advance n).boot = s.boot := rfl
@[simp] theorem State.advance_draws (n : Nat) : (s.advance n).draws = s.draws := rfl
@[simp] theorem State.advance_pc (n : Nat) : (s.advance n).pc = s.pc + n := rfl
@[simp] theorem State.advance_tph (n : Nat) : (s.advance n).tph = s.tph := rfl
@[simp] theorem State.advance_res (n : Nat) : (s.advance n).res = s.res := rfl
@[simp] theorem State.advance_win (n : Nat) : (s.advance n).win = s.win := rfl
@[simp] theorem State.advance_bus (n : Nat) : (s.advance n).bus = s.bus := rfl
@[simp] theorem State.advance_clk (n : Nat) : (s.advance n).clk = s.clk := rfl
@[simp] theorem State.advance_irq (n : Nat) : (s.advance n).irq = s.irq := rfl
@[simp] theorem State.advance_fault (n : Nat) : (s.advance n).fault = s.fault := rfl
@[simp] theorem State.advance_refused (n : Nat) : (s.advance n).refused = s.refused := rfl
@[simp] theorem State.advance_mem (n : Nat) : (s.advance n).mem = s.mem := rfl

/-! ## setPhase -/

@[simp] theorem State.setPhase_params (p : Phase) : (s.setPhase p).params = s.params := rfl
@[simp] theorem State.setPhase_cl (p : Phase) : (s.setPhase p).cl = s.cl := rfl
@[simp] theorem State.setPhase_agenda (p : Phase) : (s.setPhase p).agenda = s.agenda := rfl
@[simp] theorem State.setPhase_boot (p : Phase) : (s.setPhase p).boot = s.boot := rfl
@[simp] theorem State.setPhase_draws (p : Phase) : (s.setPhase p).draws = s.draws := rfl
@[simp] theorem State.setPhase_pc (p : Phase) : (s.setPhase p).pc = s.pc := rfl
@[simp] theorem State.setPhase_tph (p : Phase) : (s.setPhase p).tph = p := rfl
@[simp] theorem State.setPhase_res (p : Phase) : (s.setPhase p).res = s.res := rfl
@[simp] theorem State.setPhase_win (p : Phase) : (s.setPhase p).win = s.win := rfl
@[simp] theorem State.setPhase_bus (p : Phase) : (s.setPhase p).bus = s.bus := rfl
@[simp] theorem State.setPhase_clk (p : Phase) : (s.setPhase p).clk = s.clk := rfl
@[simp] theorem State.setPhase_irq (p : Phase) : (s.setPhase p).irq = s.irq := rfl
@[simp] theorem State.setPhase_fault (p : Phase) : (s.setPhase p).fault = s.fault := rfl
@[simp] theorem State.setPhase_refused (p : Phase) : (s.setPhase p).refused = s.refused := rfl
@[simp] theorem State.setPhase_mem (p : Phase) : (s.setPhase p).mem = s.mem := rfl

/-! ## finishWait -/

@[simp] theorem State.finishWait_params : s.finishWait.params = s.params := rfl
@[simp] theorem State.finishWait_cl : s.finishWait.cl = s.cl := rfl
@[simp] theorem State.finishWait_agenda : s.finishWait.agenda = s.agenda := rfl
@[simp] theorem State.finishWait_boot : s.finishWait.boot = s.boot := rfl
@[simp] theorem State.finishWait_draws : s.finishWait.draws = s.draws := rfl
@[simp] theorem State.finishWait_pc : s.finishWait.pc = s.pc + 1 := rfl
@[simp] theorem State.finishWait_tph : s.finishWait.tph = .run := rfl
@[simp] theorem State.finishWait_res : s.finishWait.res = s.res := rfl
@[simp] theorem State.finishWait_win : s.finishWait.win = s.win := rfl
@[simp] theorem State.finishWait_bus : s.finishWait.bus = s.bus := rfl
@[simp] theorem State.finishWait_clk : s.finishWait.clk = s.clk := rfl
@[simp] theorem State.finishWait_irq : s.finishWait.irq = s.irq := rfl
@[simp] theorem State.finishWait_fault : s.finishWait.fault = s.fault := rfl
@[simp] theorem State.finishWait_refused : s.finishWait.refused = s.refused := rfl
@[simp] theorem State.finishWait_mem : s.finishWait.mem = s.mem := rfl

/-! ## raise -/

@[simp] theorem State.raise_params (f : ModelFault) : (s.raise f).params = s.params := rfl
@[simp] theorem State.raise_cl (f : ModelFault) : (s.raise f).cl = s.cl := rfl
@[simp] theorem State.raise_agenda (f : ModelFault) : (s.raise f).agenda = s.agenda := rfl
@[simp] theorem State.raise_boot (f : ModelFault) : (s.raise f).boot = s.boot := rfl
@[simp] theorem State.raise_draws (f : ModelFault) : (s.raise f).draws = s.draws := rfl
@[simp] theorem State.raise_pc (f : ModelFault) : (s.raise f).pc = s.pc := rfl
@[simp] theorem State.raise_tph (f : ModelFault) : (s.raise f).tph = .faulted := rfl
@[simp] theorem State.raise_res (f : ModelFault) : (s.raise f).res = s.res := rfl
@[simp] theorem State.raise_win (f : ModelFault) : (s.raise f).win = s.win := rfl
@[simp] theorem State.raise_bus (f : ModelFault) : (s.raise f).bus = s.bus := rfl
@[simp] theorem State.raise_clk (f : ModelFault) : (s.raise f).clk = s.clk := rfl
@[simp] theorem State.raise_irq (f : ModelFault) : (s.raise f).irq = s.irq := rfl
@[simp] theorem State.raise_fault (f : ModelFault) : (s.raise f).fault = if s.fault = 0 then f.code else s.fault := rfl
@[simp] theorem State.raise_refused (f : ModelFault) : (s.raise f).refused = s.refused := rfl
@[simp] theorem State.raise_mem (f : ModelFault) : (s.raise f).mem = s.mem := rfl

/-! ## refuse -/

@[simp] theorem State.refuse_params : s.refuse.params = s.params := rfl
@[simp] theorem State.refuse_cl : s.refuse.cl = s.cl := rfl
@[simp] theorem State.refuse_agenda : s.refuse.agenda = s.agenda := rfl
@[simp] theorem State.refuse_boot : s.refuse.boot = s.boot := rfl
@[simp] theorem State.refuse_draws : s.refuse.draws = s.draws := rfl
@[simp] theorem State.refuse_pc : s.refuse.pc = s.pc := rfl
@[simp] theorem State.refuse_tph : s.refuse.tph = .faulted := rfl
@[simp] theorem State.refuse_res : s.refuse.res = s.res := rfl
@[simp] theorem State.refuse_win : s.refuse.win = s.win := rfl
@[simp] theorem State.refuse_bus : s.refuse.bus = s.bus := rfl
@[simp] theorem State.refuse_clk : s.refuse.clk = s.clk := rfl
@[simp] theorem State.refuse_irq : s.refuse.irq = s.irq := rfl
@[simp] theorem State.refuse_fault : s.refuse.fault = s.fault := rfl
@[simp] theorem State.refuse_refused : s.refuse.refused = true := rfl
@[simp] theorem State.refuse_mem : s.refuse.mem = s.mem := rfl

/-! ## clearPending -/

@[simp] theorem State.clearPending_params (q : Source) : (s.clearPending q).params = s.params := rfl
@[simp] theorem State.clearPending_cl (q : Source) : (s.clearPending q).cl = s.cl := rfl
@[simp] theorem State.clearPending_agenda (q : Source) : (s.clearPending q).agenda = s.agenda := rfl
@[simp] theorem State.clearPending_boot (q : Source) : (s.clearPending q).boot = s.boot := rfl
@[simp] theorem State.clearPending_draws (q : Source) : (s.clearPending q).draws = s.draws := rfl
@[simp] theorem State.clearPending_pc (q : Source) : (s.clearPending q).pc = s.pc := rfl
@[simp] theorem State.clearPending_tph (q : Source) : (s.clearPending q).tph = s.tph := rfl
@[simp] theorem State.clearPending_res (q : Source) : (s.clearPending q).res = s.res := rfl
@[simp] theorem State.clearPending_win (q : Source) : (s.clearPending q).win = s.win := rfl
@[simp] theorem State.clearPending_bus (q : Source) : (s.clearPending q).bus = s.bus := rfl
@[simp] theorem State.clearPending_clk (q : Source) : (s.clearPending q).clk = s.clk := rfl
@[simp] theorem State.clearPending_irq (q : Source) : (s.clearPending q).irq = s.irq.clear q := rfl
@[simp] theorem State.clearPending_fault (q : Source) : (s.clearPending q).fault = s.fault := rfl
@[simp] theorem State.clearPending_refused (q : Source) : (s.clearPending q).refused = s.refused := rfl
@[simp] theorem State.clearPending_mem (q : Source) : (s.clearPending q).mem = s.mem := rfl

/-! ## wake -/

@[simp] theorem State.wake_params : s.wake.params = s.params := rfl
@[simp] theorem State.wake_cl : s.wake.cl = s.cl := rfl
@[simp] theorem State.wake_agenda : s.wake.agenda = s.agenda := rfl
@[simp] theorem State.wake_boot : s.wake.boot = s.boot := rfl
@[simp] theorem State.wake_draws : s.wake.draws = s.draws := rfl
@[simp] theorem State.wake_pc : s.wake.pc = s.pc := rfl
@[simp] theorem State.wake_tph : s.wake.tph = s.tph.woken := rfl
@[simp] theorem State.wake_res : s.wake.res = s.res := rfl
@[simp] theorem State.wake_win : s.wake.win = s.win := rfl
@[simp] theorem State.wake_bus : s.wake.bus = s.bus := rfl
@[simp] theorem State.wake_clk : s.wake.clk = s.clk := rfl
@[simp] theorem State.wake_irq : s.wake.irq = s.irq := rfl
@[simp] theorem State.wake_fault : s.wake.fault = s.fault := rfl
@[simp] theorem State.wake_refused : s.wake.refused = s.refused := rfl
@[simp] theorem State.wake_mem : s.wake.mem = s.mem := rfl

/-! ## memWrite -/

@[simp] theorem State.memWrite_params (a : Nat) (v : Byte) : (s.memWrite a v).params = s.params := rfl
@[simp] theorem State.memWrite_cl (a : Nat) (v : Byte) : (s.memWrite a v).cl = s.cl := rfl
@[simp] theorem State.memWrite_agenda (a : Nat) (v : Byte) : (s.memWrite a v).agenda = s.agenda := rfl
@[simp] theorem State.memWrite_boot (a : Nat) (v : Byte) : (s.memWrite a v).boot = s.boot := rfl
@[simp] theorem State.memWrite_draws (a : Nat) (v : Byte) : (s.memWrite a v).draws = s.draws := rfl
@[simp] theorem State.memWrite_pc (a : Nat) (v : Byte) : (s.memWrite a v).pc = s.pc := rfl
@[simp] theorem State.memWrite_tph (a : Nat) (v : Byte) : (s.memWrite a v).tph = s.tph := rfl
@[simp] theorem State.memWrite_res (a : Nat) (v : Byte) : (s.memWrite a v).res = s.res := rfl
@[simp] theorem State.memWrite_win (a : Nat) (v : Byte) : (s.memWrite a v).win = s.win := rfl
@[simp] theorem State.memWrite_bus (a : Nat) (v : Byte) : (s.memWrite a v).bus = s.bus := rfl
@[simp] theorem State.memWrite_clk (a : Nat) (v : Byte) : (s.memWrite a v).clk = s.clk := rfl
@[simp] theorem State.memWrite_irq (a : Nat) (v : Byte) : (s.memWrite a v).irq = s.irq := rfl
@[simp] theorem State.memWrite_fault (a : Nat) (v : Byte) : (s.memWrite a v).fault = s.fault := rfl
@[simp] theorem State.memWrite_refused (a : Nat) (v : Byte) : (s.memWrite a v).refused = s.refused := rfl
@[simp] theorem State.memWrite_mem (a : Nat) (v : Byte) : (s.memWrite a v).mem = s.mem.write a v := rfl

/-! ## Bus.hwStart -/

@[simp] theorem Bus.hwStart_bst (b : Bus) : b.hwStart.bst = b.bst := rfl
@[simp] theorem Bus.hwStart_baddr (b : Bus) : b.hwStart.baddr = b.baddr := rfl
@[simp] theorem Bus.hwStart_bbase (b : Bus) : b.hwStart.bbase = b.bbase := rfl
@[simp] theorem Bus.hwStart_blen (b : Bus) : b.hwStart.blen = b.blen := rfl
@[simp] theorem Bus.hwStart_bptr (b : Bus) : b.hwStart.bptr = b.bptr := rfl
@[simp] theorem Bus.hwStart_brem (b : Bus) : b.hwStart.brem = b.brem := rfl
@[simp] theorem Bus.hwStart_berr (b : Bus) : b.hwStart.berr = b.berr := rfl
@[simp] theorem Bus.hwStart_bstat (b : Bus) : b.hwStart.bstat = b.bstat := rfl
@[simp] theorem Bus.hwStart_bhw (b : Bus) : b.hwStart.bhw = true := rfl
@[simp] theorem Bus.hwStart_btrace (b : Bus) : b.hwStart.btrace = b.btrace ++ [.start] := rfl

/-! ## Bus.hwWrite -/

@[simp] theorem Bus.hwWrite_bst (b : Bus) (v : Byte) : (b.hwWrite v).bst = b.bst := rfl
@[simp] theorem Bus.hwWrite_baddr (b : Bus) (v : Byte) : (b.hwWrite v).baddr = b.baddr := rfl
@[simp] theorem Bus.hwWrite_bbase (b : Bus) (v : Byte) : (b.hwWrite v).bbase = b.bbase := rfl
@[simp] theorem Bus.hwWrite_blen (b : Bus) (v : Byte) : (b.hwWrite v).blen = b.blen := rfl
@[simp] theorem Bus.hwWrite_bptr (b : Bus) (v : Byte) : (b.hwWrite v).bptr = b.bptr := rfl
@[simp] theorem Bus.hwWrite_brem (b : Bus) (v : Byte) : (b.hwWrite v).brem = b.brem := rfl
@[simp] theorem Bus.hwWrite_berr (b : Bus) (v : Byte) : (b.hwWrite v).berr = b.berr := rfl
@[simp] theorem Bus.hwWrite_bstat (b : Bus) (v : Byte) : (b.hwWrite v).bstat = b.bstat := rfl
@[simp] theorem Bus.hwWrite_bhw (b : Bus) (v : Byte) : (b.hwWrite v).bhw = true := rfl
@[simp] theorem Bus.hwWrite_btrace (b : Bus) (v : Byte) : (b.hwWrite v).btrace = b.btrace ++ [.write v] := rfl

/-! ## Bus.hwStop -/

@[simp] theorem Bus.hwStop_bst (b : Bus) : b.hwStop.bst = b.bst := rfl
@[simp] theorem Bus.hwStop_baddr (b : Bus) : b.hwStop.baddr = b.baddr := rfl
@[simp] theorem Bus.hwStop_bbase (b : Bus) : b.hwStop.bbase = b.bbase := rfl
@[simp] theorem Bus.hwStop_blen (b : Bus) : b.hwStop.blen = b.blen := rfl
@[simp] theorem Bus.hwStop_bptr (b : Bus) : b.hwStop.bptr = b.bptr := rfl
@[simp] theorem Bus.hwStop_brem (b : Bus) : b.hwStop.brem = b.brem := rfl
@[simp] theorem Bus.hwStop_berr (b : Bus) : b.hwStop.berr = b.berr := rfl
@[simp] theorem Bus.hwStop_bstat (b : Bus) : b.hwStop.bstat = b.bstat := rfl
@[simp] theorem Bus.hwStop_bhw (b : Bus) : b.hwStop.bhw = false := rfl
@[simp] theorem Bus.hwStop_btrace (b : Bus) : b.hwStop.btrace = b.btrace ++ [.stop] := rfl

/-! ## Irq.clear -/

@[simp] theorem Irq.clear_gie (r : Irq) (q : Source) : (r.clear q).gie = r.gie := by cases q <;> rfl
@[simp] theorem Irq.clear_ieTick (r : Irq) (q : Source) : (r.clear q).ieTick = r.ieTick := by cases q <;> rfl
@[simp] theorem Irq.clear_ieCap (r : Irq) (q : Source) : (r.clear q).ieCap = r.ieCap := by cases q <;> rfl
@[simp] theorem Irq.clear_ieBus (r : Irq) (q : Source) : (r.clear q).ieBus = r.ieBus := by cases q <;> rfl
@[simp] theorem Irq.clear_csActive (r : Irq) (q : Source) : (r.clear q).csActive = r.csActive := by cases q <;> rfl
@[simp] theorem Irq.clear_csSaved (r : Irq) (q : Source) : (r.clear q).csSaved = r.csSaved := by cases q <;> rfl
@[simp] theorem Irq.clear_tick_ifTick (r : Irq) : (r.clear .tick).ifTick = false := rfl
@[simp] theorem Irq.clear_tick_ifCap (r : Irq) : (r.clear .tick).ifCap = r.ifCap := rfl
@[simp] theorem Irq.clear_tick_ifBus (r : Irq) : (r.clear .tick).ifBus = r.ifBus := rfl
@[simp] theorem Irq.clear_capture_ifTick (r : Irq) : (r.clear .capture).ifTick = r.ifTick := rfl
@[simp] theorem Irq.clear_capture_ifCap (r : Irq) : (r.clear .capture).ifCap = false := rfl
@[simp] theorem Irq.clear_capture_ifBus (r : Irq) : (r.clear .capture).ifBus = r.ifBus := rfl
@[simp] theorem Irq.clear_bus_ifTick (r : Irq) : (r.clear .bus).ifTick = r.ifTick := rfl
@[simp] theorem Irq.clear_bus_ifCap (r : Irq) : (r.clear .bus).ifCap = r.ifCap := rfl
@[simp] theorem Irq.clear_bus_ifBus (r : Irq) : (r.clear .bus).ifBus = false := rfl
@[simp] theorem Irq.clear_enable (r : Irq) (q q' : Source) : (r.clear q).enable q' = r.enable q' := by
  cases q <;> cases q' <;> rfl

end Sys2Proof.Machine
end

