-- ==== Sys2Proof/Laws/Ops.lean ====
section
/-! SUPPORT. What each shared operation can do, once: the bus rounds of a payload byte, the bus handler, interrupt
entry, and memory access. -/

namespace Sys2Proof.Machine

/-- MemRead inside data memory. -/
theorem State.memRead_of_lt (s : State) (a : Nat) (h : a < s.params.memSize) : s.memRead a = some (s.mem.read a) := by
  simp [State.memRead, h]

/-- Interrupt entry answers a next state exactly when it is enabled and the handler does; the state is then the
handler's, woken (60 R205). -/
theorem State.enter_next_iff (s t : State) (q : Source) (h : State → StepOutcome) :
    s.enter q h = .next t ↔ s.entryEnabled q = true ∧ ∃ u, h (s.clearPending q) = .next u ∧ t = u.wake := by
  unfold State.enter
  split
  · rename_i he
    simp only [he, true_and]
    split <;> rename_i hu <;> simp only [hu, Host.Outcome.next.injEq, reduceCtorEq, false_and, exists_false]
    exact ⟨fun h => ⟨_, rfl, h.symm⟩, fun ⟨_, h, ht⟩ => by rw [ht, h]⟩
  · rename_i he
    simp [he]

/-- Interrupt entry faults exactly when it is enabled and the handler does. -/
theorem State.enter_fault_iff (s : State) (f : Fault) (q : Source) (h : State → StepOutcome) :
    s.enter q h = .fault f ↔ s.entryEnabled q = true ∧ h (s.clearPending q) = .fault f := by
  unfold State.enter
  split
  · rename_i he
    simp only [he, true_and]
    split <;> simp_all
  · rename_i he
    simp [he]

/-- Interrupt entry that is not enabled is no step (60 R204). -/
theorem State.enter_of_not_enabled (s : State) (q : Source) (h : State → StepOutcome)
    (he : s.entryEnabled q = false) : s.enter q h = .refused (.entryNotEnabled q) := by
  simp [State.enter, he]

/-- Interrupt entry with a handler that never refuses is refused only when it is not enabled. -/
theorem State.enter_refused_iff (s : State) (r : Refusal) (q : Source) (h : State → StepOutcome)
    (hh : ∀ u x, h u ≠ .refused x) :
    s.enter q h = .refused r ↔ s.entryEnabled q = false ∧ r = .entryNotEnabled q := by
  unfold State.enter
  split
  · rename_i he
    simp only [he]
    split <;> simp_all
  · rename_i he
    simp [he, eq_comm]

/-- Sending a payload byte: inside data memory it completes with that byte on the bus, outside it stops. -/
theorem sendByte_cases (s : State) :
    (s.bus.bptr.toNat < s.params.memSize ∧
      sendByte s = .next { s with
        bus := { s.bus.hwWrite (s.mem.read s.bus.bptr.toNat) with
          bptr := s.nextPtr, brem := s.bus.brem - 1, bst := .dataSending }
        draws := s.draws + 1 }) ∨
    (s.params.memSize ≤ s.bus.bptr.toNat ∧ sendByte s = .fault (.noSuchByte s.bus.bptr.toNat)) := by
  by_cases h : s.bus.bptr.toNat < s.params.memSize
  · exact .inl ⟨h, by simp [sendByte, State.memRead, h]⟩
  · exact .inr ⟨by omega, by simp [sendByte, State.memRead, h]⟩

/-- The bus handler never refuses. -/
theorem busHandler_ne_refused (s : State) (r : Refusal) : busHandler s ≠ .refused r := by
  unfold busHandler
  rcases sendByte_cases s with ⟨-, h⟩ | ⟨-, h⟩ <;> rw [h] <;> (repeat' split) <;> simp

/-- Everything the bus handler can do when it answers a next state (41 R130, R134 to R138). -/
theorem busHandler_next (s t : State) (h : busHandler s = .next t) :
    (s.bus.bst = .starting ∧ (s.bus.bstat = s.params.stStart ∨ s.bus.bstat = s.params.stRepStart) ∧
      t = sendAddress s) ∨
    (s.bus.bst.busy = true ∧ t = busError s) ∨
    ((s.bus.bst = .addressSent ∨ s.bus.bst = .dataSending ∧ s.bus.brem ≠ 0) ∧
      s.bus.bptr.toNat < s.params.memSize ∧ sendByte s = .next t) ∨
    (s.bus.bst = .dataSending ∧ s.bus.brem = 0 ∧ s.bus.bstat = s.params.stDataAck ∧ t = sendStop s) ∨
    (s.bus.bst.busy = false ∧ t = s) := by
  have inRange : sendByte s = .next t → s.bus.bptr.toNat < s.params.memSize := fun h => by
    rcases sendByte_cases s with ⟨hlt, -⟩ | ⟨-, hf⟩
    · exact hlt
    · rw [hf] at h; cases h
  have isError : .next (busError s) = (.next t : StepOutcome) → t = busError s := fun h => by injection h with h; exact h.symm
  unfold busHandler at h
  split at h <;> rename_i hb
  · split at h <;> rename_i hs <;> injection h with h
    · exact .inl ⟨hb, hs, h.symm⟩
    · exact .inr (.inl ⟨by simp [hb, BusState.busy], h.symm⟩)
  · split at h
    · exact .inr (.inr (.inl ⟨.inl hb, inRange h, h⟩))
    · exact .inr (.inl ⟨by simp [hb, BusState.busy], isError h⟩)
  · split at h
    · split at h <;> rename_i hr
      · exact .inr (.inr (.inl ⟨.inr ⟨hb, hr⟩, inRange h, h⟩))
      · injection h with h
        exact .inr (.inr (.inr (.inl ⟨hb, by simpa using hr, by assumption, h.symm⟩)))
    · exact .inr (.inl ⟨by simp [hb, BusState.busy], isError h⟩)
  all_goals
    injection h with h
    exact .inr (.inr (.inr (.inr ⟨by simp [hb, BusState.busy], h.symm⟩)))

/-- The bus handler stops only on a payload byte outside data memory (20 R63). -/
theorem busHandler_fault (s : State) (f : Fault) (h : busHandler s = .fault f) :
    (s.bus.bst = .addressSent ∨ s.bus.bst = .dataSending ∧ s.bus.brem ≠ 0) ∧
      s.params.memSize ≤ s.bus.bptr.toNat := by
  have outOfRange : sendByte s = .fault f → s.params.memSize ≤ s.bus.bptr.toNat := fun h => by
    rcases sendByte_cases s with ⟨-, hn⟩ | ⟨hge, -⟩
    · rw [hn] at h; cases h
    · exact hge
  unfold busHandler at h
  split at h <;> rename_i hb
  · cases h
  · split at h
    · exact ⟨.inl hb, outOfRange h⟩
    · cases h
  · split at h
    · split at h
      · exact ⟨.inr ⟨hb, by assumption⟩, outOfRange h⟩
      · cases h
    · cases h
  all_goals cases h

end Sys2Proof.Machine
end

