-- ==== Sys2Proof/Laws/Entry.lean ====
section
/-! SUPPORT. What each interrupt entry and each bus completion can do, stated on the state it starts from
(40 R104, 41 R134, 42 R160, 60 R205, R213). -/

namespace Sys2Proof.Machine

/-! ## The window after an edge -/

@[simp] theorem recordEdge_edgeCount (p : Params) (ts : Half) (w : Window) :
    (recordEdge p ts w).edgeCount = nextEdgeCount p w := by
  unfold recordEdge; split
  · rfl
  · split <;> rfl

@[simp] theorem recordEdge_threshold (p : Params) (ts : Half) (w : Window) :
    (recordEdge p ts w).threshold = w.threshold := by
  unfold recordEdge; split
  · rfl
  · split <;> rfl

/-- The handshake branch (40 R105). -/
theorem recordEdge_handshake (p : Params) (ts : Half) (w : Window) (h : nextEdgeCount p w ≤ 2) :
    recordEdge p ts w = { w with edgeCount := nextEdgeCount p w, lastEdge := ts } := by
  rw [recordEdge, if_pos (by simpa [nHandshake] using h)]

/-- The discard branch (40 R106). -/
theorem recordEdge_discard (p : Params) (ts : Half) (w : Window) (h : 42 < nextEdgeCount p w) :
    recordEdge p ts w = { w with edgeCount := nextEdgeCount p w } := by
  rw [recordEdge, if_neg (by simp [nHandshake]; omega), if_pos (by simpa [maxEdge] using h)]

/-- The data branch (40 R107). -/
theorem recordEdge_data (p : Params) (ts : Half) (w : Window) (h3 : 3 ≤ nextEdgeCount p w)
    (h42 : nextEdgeCount p w ≤ 42) :
    recordEdge p ts w =
      { w with
        edgeCount := nextEdgeCount p w
        intervals := w.intervals.setIfInBounds (nextEdgeCount p w - 3) (interval p.period ts w.lastEdge)
        lastEdge := ts } := by
  rw [recordEdge, if_neg (by simp [nHandshake]; omega), if_neg (by simp [maxEdge]; omega)]

/-! ## Interrupt entries -/

/-- INT_TICK (42 R160). -/
theorem execIntTick_next_iff (s t : State) : execIntTick s = .next t ↔ s.entryEnabled .tick = true ∧
    t = { s with
      clk := { s.clk with ticks := (s.clk.ticks + 1) % 2 ^ s.params.tickBits }
      irq := s.irq.clear .tick
      tph := s.tph.woken } := by
  rw [execIntTick, State.enter_next_iff]
  exact ⟨fun ⟨he, u, hu, ht⟩ => ⟨he, by injection hu with hu; subst hu; exact ht⟩, fun ⟨he, ht⟩ => ⟨he, _, rfl, ht⟩⟩

/-- INT_CAP (40 R104). -/
theorem execIntCap_next_iff (s t : State) : execIntCap s = .next t ↔ s.entryEnabled .capture = true ∧
    t = { s with
      win := recordEdge s.params s.clk.icr s.win
      irq := s.irq.clear .capture
      tph := s.tph.woken } := by
  rw [execIntCap, State.enter_next_iff]
  exact ⟨fun ⟨he, u, hu, ht⟩ => ⟨he, by injection hu with hu; subst hu; exact ht⟩, fun ⟨he, ht⟩ => ⟨he, _, rfl, ht⟩⟩

/-- The five ways INT_BUS answers a next state (41 R130): BUS is what becomes of the bus registers and of the draw
counter. -/
theorem execIntBus_next (s t : State) (h : execIntBus s = .next t) : s.entryEnabled .bus = true ∧
    ∃ b d, t = { s with bus := b, draws := d, irq := s.irq.clear .bus, tph := s.tph.woken } ∧
    ((s.bus.bst = .starting ∧ d = s.draws ∧ b = { s.bus.hwWrite (addrByte s.bus.baddr) with bst := .addressSent }) ∨
      (s.bus.bst.busy = true ∧ d = s.draws ∧ b = { s.bus with berr := s.bus.bstat, bst := .error }) ∨
      ((s.bus.bst = .addressSent ∨ s.bus.bst = .dataSending ∧ s.bus.brem ≠ 0) ∧
        s.bus.bptr.toNat < s.params.memSize ∧
        b = { s.bus.hwWrite (s.mem.read s.bus.bptr.toNat) with
          bptr := s.nextPtr, brem := s.bus.brem - 1, bst := .dataSending }) ∨
      (s.bus.bst = .dataSending ∧ s.bus.brem = 0 ∧ d = s.draws ∧ b = { s.bus.hwStop with bst := .stopped }) ∨
      (s.bus.bst.busy = false ∧ d = s.draws ∧ b = s.bus)) := by
  rw [execIntBus, State.enter_next_iff] at h
  obtain ⟨he, u, hu, rfl⟩ := h
  refine ⟨he, u.bus, u.draws, ?_⟩
  rcases busHandler_next _ _ hu with ⟨hb, -, rfl⟩ | ⟨hb, rfl⟩ | ⟨hb, hlt, h⟩ | ⟨hb, hr, -, rfl⟩ | ⟨hb, rfl⟩
  · exact ⟨rfl, .inl ⟨hb, rfl, rfl⟩⟩
  · exact ⟨rfl, .inr (.inl ⟨hb, rfl, rfl⟩)⟩
  · rcases sendByte_cases (s.clearPending .bus) with ⟨-, h'⟩ | ⟨hge, -⟩
    · rw [h'] at h
      injection h with h
      subst h
      exact ⟨rfl, .inr (.inr (.inl ⟨hb, hlt, rfl⟩))⟩
    · exact absurd hlt (by omega)
  · exact ⟨rfl, .inr (.inr (.inr (.inl ⟨hb, hr, rfl, rfl⟩)))⟩
  · exact ⟨rfl, .inr (.inr (.inr (.inr ⟨hb, rfl, rfl⟩)))⟩

/-- INT_BUS stops only on a payload byte outside data memory (20 R63). -/
theorem execIntBus_fault (s : State) (f : Fault) (h : execIntBus s = .fault f) :
    (s.bus.bst = .addressSent ∨ s.bus.bst = .dataSending ∧ s.bus.brem ≠ 0) ∧
      s.params.memSize ≤ s.bus.bptr.toNat := by
  rw [execIntBus, State.enter_fault_iff] at h
  exact busHandler_fault (s.clearPending .bus) f h.2

/-- EV_BUS (60 R213). -/
theorem execEvBus_next_iff (st : Byte) (s t : State) :
    execEvBus st s = .next t ↔ s.bus.bhw = true ∧ t = completeBus st s := by
  unfold execEvBus
  split <;> rename_i h
  · exact ⟨fun e => ⟨h, by injection e with e; exact e.symm⟩, fun e => by rw [e.2]⟩
  · exact ⟨fun e => (nomatch e), fun e => absurd e.1 h⟩

end Sys2Proof.Machine
end

