-- ==== Sys2Proof/Laws/Memory.lean ====
section
/-! SUPPORT. Data memory: a read after a write, and the canonical form (20 R60 to R62). -/

namespace Sys2Proof.Machine

@[simp] theorem Memory.read_nil (a : Nat) : Memory.read [] a = unlistedByte := rfl

theorem Memory.read_cons (k : Nat) (w : Byte) (m : Memory) (a : Nat) :
    Memory.read ((k, w) :: m) a = if k = a then w else m.read a := rfl

/-- An address below every listed one reads as unlisted. -/
theorem Memory.read_of_lt (m : Memory) (a : Nat) (h : ∀ c ∈ m, a < c.1) : m.read a = unlistedByte := by
  induction m with
  | nil => rfl
  | cons c m ih =>
    have hc := h c (by simp)
    rw [show c = (c.1, c.2) from rfl, Memory.read_cons, if_neg (by omega)]
    exact ih fun d hd => h d (by simp [hd])

/-- Entries of a memory after a write: an old entry, or the one written. -/
theorem Memory.mem_write {m : Memory} {a : Nat} {v : Byte} {c : Host.Cell} (h : c ∈ m.write a v) :
    c ∈ m ∨ (c = (a, v) ∧ v ≠ unlistedByte) := by
  induction m with
  | nil =>
    simp only [Memory.write] at h
    split at h <;> simp_all
  | cons d m ih =>
    obtain ⟨k, w⟩ := d
    simp only [Memory.write] at h
    split at h
    · split at h
      · exact .inl h
      · rcases List.mem_cons.1 h with rfl | h <;> simp_all
    · split at h
      · split at h
        · exact .inl (by simp [h])
        · rcases List.mem_cons.1 h with rfl | h <;> simp_all
      · rcases List.mem_cons.1 h with rfl | h
        · simp
        · rcases ih h with h | h <;> simp_all

/-- A write keeps the canonical form. -/
theorem Memory.write_wf (m : Memory) (a : Nat) (v : Byte) (h : m.wf) : (m.write a v).wf := by
  refine ⟨?_, fun c hc => ?_⟩
  · obtain ⟨hp, -⟩ := h
    induction m with
    | nil => simp only [Memory.write]; split <;> simp
    | cons d m ih =>
      obtain ⟨k, w⟩ := d
      have hk := List.pairwise_cons.1 hp
      simp only [Memory.write]
      split
      · split
        · exact hp
        · refine List.pairwise_cons.2 ⟨fun c hc => ?_, hp⟩
          rcases List.mem_cons.1 hc with rfl | hc
          · assumption
          · have := hk.1 c hc; simp only at this ⊢; omega
      · split
        · split
          · exact hk.2
          · subst_vars; exact List.pairwise_cons.2 ⟨hk.1, hk.2⟩
        · refine List.pairwise_cons.2 ⟨fun c hc => ?_, ih hk.2⟩
          rcases Memory.mem_write hc with hc | ⟨rfl, -⟩
          · exact hk.1 c hc
          · simp only; omega
  · rcases Memory.mem_write hc with hc | ⟨rfl, hv⟩
    · exact h.2 c hc
    · exact hv

/-- A write inside the space keeps the memory inside it. -/
theorem Memory.write_below (m : Memory) (a n : Nat) (v : Byte) (h : m.below n) (ha : a < n) :
    (m.write a v).below n := fun c hc => by
  rcases Memory.mem_write hc with hc | ⟨rfl, -⟩
  · exact h c hc
  · exact ha

/-- A read elsewhere is not changed by a write. -/
theorem Memory.read_write_of_ne (m : Memory) (a b : Nat) (v : Byte) (hb : b ≠ a) :
    (m.write a v).read b = m.read b := by
  induction m with
  | nil =>
    simp only [Memory.write]
    split
    · rfl
    · simp [Memory.read_cons, Ne.symm hb]
  | cons d m ih =>
    obtain ⟨k, w⟩ := d
    simp only [Memory.write]
    split
    · split
      · rfl
      · simp [Memory.read_cons, Ne.symm hb]
    · split
      · subst_vars; split <;> simp [Memory.read_cons, Ne.symm hb]
      · simp [Memory.read_cons, ih]

/-- A read of the written address gives the value written, in a memory in canonical form. -/
theorem Memory.read_write_of_wf (m : Memory) (a : Nat) (v : Byte) (h : m.wf) : (m.write a v).read a = v := by
  obtain ⟨hp, -⟩ := h
  induction m with
  | nil =>
    simp only [Memory.write]
    split
    · simp_all
    · simp [Memory.read_cons]
  | cons d m ih =>
    obtain ⟨k, w⟩ := d
    have hk := List.pairwise_cons.1 hp
    simp only [Memory.write]
    split
    · split
      · rename_i hlt hv
        rw [hv]
        exact Memory.read_of_lt _ _ fun c hc => by
          rcases List.mem_cons.1 hc with rfl | hc
          · exact hlt
          · have := hk.1 c hc; simp only at this; omega
      · simp [Memory.read_cons]
    · split
      · split
        · rename_i hv
          subst_vars
          exact Memory.read_of_lt _ _ hk.1
        · simp [Memory.read_cons]
      · rw [Memory.read_cons, if_neg (by omega), ih hk.2]

/-- Memories in canonical form that read alike are equal data. -/
theorem Memory.ext_of_read (m n : Memory) (hm : m.wf) (hn : n.wf) (h : ∀ a, m.read a = n.read a) : m = n := by
  induction m generalizing n with
  | nil =>
    cases n with
    | nil => rfl
    | cons d n =>
      have := h d.1
      rw [show d = (d.1, d.2) from rfl, Memory.read_cons] at this
      exact absurd (by simpa using this.symm) (hn.2 d (by simp))
  | cons c m ih =>
    have hcm := List.pairwise_cons.1 hm.1
    cases n with
    | nil =>
      have := h c.1
      rw [show c = (c.1, c.2) from rfl, Memory.read_cons] at this
      exact absurd (by simpa using this) (hm.2 c (by simp))
    | cons d n =>
      have hdn := List.pairwise_cons.1 hn.1
      have hc := h c.1
      have hd := h d.1
      obtain ⟨k, v⟩ := c
      obtain ⟨l, w⟩ := d
      simp only [Memory.read_cons, if_true] at hc hd
      have hv : v ≠ unlistedByte := hm.2 (k, v) (by simp)
      have hw : w ≠ unlistedByte := hn.2 (l, w) (by simp)
      have hkl : k = l := by
        rcases Nat.lt_trichotomy k l with hlt | heq | hgt
        · rw [if_neg (by omega), Memory.read_of_lt n k fun e he => by
            have := hdn.1 e he; simp only at this; omega] at hc
          exact absurd hc hv
        · exact heq
        · rw [if_neg (by omega), Memory.read_of_lt m l fun e he => by
            have := hcm.1 e he; simp only at this; omega] at hd
          exact absurd hd.symm hw
      subst hkl
      simp only [if_true] at hc
      subst hc
      congr 1
      refine ih n ⟨hcm.2, fun e he => hm.2 e (by simp [he])⟩ ⟨hdn.2, fun e he => hn.2 e (by simp [he])⟩ fun a => ?_
      have ha := h a
      simp only [Memory.read_cons] at ha
      by_cases hka : k = a
      · subst hka
        rw [Memory.read_of_lt m k hcm.1, Memory.read_of_lt n k hdn.1]
      · simpa [hka] using ha

/-- The reset memory is in the canonical form. -/
theorem reset_mem_wf : State.reset.mem.wf := ⟨List.Pairwise.nil, fun _ h => absurd h List.not_mem_nil⟩

end Sys2Proof.Machine
end

