-- ==== Sys2Proof/Laws/Params.lean ====
section
/-! SUPPORT. The parameters: legal whatever the implementation chose, and the table form of US_TO_COUNTS loses no
function (00 R8). -/

namespace Sys2Proof.Laws

/-- Looking up a listed argument in the table of a function. -/
theorem lookup_table (g : Nat → Nat) (l : List Nat) (k : Nat) (hk : k ∈ l) :
    (l.map fun k => (k, g k)).lookup k = some (g k) := by
  induction l with
  | nil => simp at hk
  | cons a l ih =>
    by_cases h : k = a
    · subst h; simp
    · have : (k == a) = false := by simpa using h
      rw [List.map_cons, List.lookup_cons, this]
      exact ih ((List.mem_cons.1 hk).resolve_left h)

/-- A function of the numbers below N has a table. -/
theorem table_below (N : Nat) (g : Nat → Nat) :
    ∃ l : List (Nat × Nat), ∀ k, k < N → l.lookup k = some (g k) :=
  ⟨(List.range N).map fun k => (k, g k), fun k hk => lookup_table g _ k (List.mem_range.2 hk)⟩

/-- Every total function of a 24-bit n has a table. -/
theorem usTable_represents (f : BitVec 24 → Nat) : ∃ t : UsTable, ∀ n, t.counts n = f n := by
  obtain ⟨l, hl⟩ := table_below (2 ^ 24) fun k => f (BitVec.ofNat 24 k)
  exact ⟨⟨0, l⟩, fun n => by rw [UsTable.counts, hl n.toNat n.isLt, BitVec.ofNat_toNat, BitVec.setWidth_eq]⟩

/-- The offsets of the implementation's choices make every period from 2 to 65535, and no other, some choice. -/
theorem period_choice_iff (p : Nat) : (∃ c : Fin 65534, 2 + c.val = p) ↔ 2 ≤ p ∧ p ≤ 65535 :=
  ⟨fun ⟨c, h⟩ => by omega, fun h => ⟨⟨p - 2, by omega⟩, by simp only; omega⟩⟩

end Sys2Proof.Laws
end

