-- ==== Sys2Proof/Laws/PerInstr.lean ====
section
/-! SUPPORT. The encoding, instruction by instruction (30 R81, R88, R90): the family `Encoding`. -/

namespace Sys2Proof.Laws

/-- The encoding of an instruction: as many words as its row says, the row's opcode in bits 31..24 of the first, and
an opcode of the command range exactly when it is a thread command. -/
def Encoding.Statement (i : Instr) : Prop :=
  (encode i).length = i.length ∧ (encode i).head?.map opField = some i.opcode ∧
    (i.opcode < 0x80 ↔ i.isCommand = true)

/-- What makes a one-word encoding meet the statement. -/
theorem Encoding.ofWord (i : Instr) (x : BitVec 24) (he : encode i = [encodeOp i.opcode x]) (hl : i.length = 1)
    (hc : i.opcode < 0x80 ↔ i.isCommand = true) : Encoding.Statement i :=
  ⟨by rw [he, hl]; rfl, by rw [he]; simp, hc⟩

theorem Encoding.endRun : Encoding.Statement .endRun := ofWord _ 0 rfl rfl (by decide)
theorem Encoding.arm : Encoding.Statement .arm := ofWord _ 0 rfl rfl (by decide)
theorem Encoding.disarm : Encoding.Statement .disarm := ofWord _ 0 rfl rfl (by decide)
theorem Encoding.decode : Encoding.Statement .decode := ofWord _ 0 rfl rfl (by decide)
theorem Encoding.submit (addr : BitVec 7) (len base : Half) : Encoding.Statement (.submit addr len base) :=
  ⟨rfl, by simp only [encode, List.head?, Option.map, opField_encodeOp, Instr.opcode], by simp [Instr.opcode, Instr.isCommand, Instr.space]⟩
theorem Encoding.await : Encoding.Statement .await := ofWord _ 0 rfl rfl (by decide)
theorem Encoding.waits (n : BitVec 24) : Encoding.Statement (.waits n) := ofWord _ n rfl rfl (by simp [Instr.opcode, Instr.isCommand, Instr.space])
theorem Encoding.waitus (n : BitVec 24) : Encoding.Statement (.waitus n) := ofWord _ n rfl rfl (by simp [Instr.opcode, Instr.isCommand, Instr.space])
theorem Encoding.now : Encoding.Statement .now := ofWord _ 0 rfl rfl (by decide)
theorem Encoding.csenter : Encoding.Statement .csenter := ofWord _ 0 rfl rfl (by decide)
theorem Encoding.csexit : Encoding.Statement .csexit := ofWord _ 0 rfl rfl (by decide)
theorem Encoding.sleep : Encoding.Statement .sleep := ofWord _ 0 rfl rfl (by decide)
theorem Encoding.stb (a : Half) (v : Byte) : Encoding.Statement (.stb a v) := ofWord _ _ rfl rfl (by simp [Instr.opcode, Instr.isCommand, Instr.space])
theorem Encoding.evTcnt : Encoding.Statement .evTcnt := ofWord _ 0 rfl rfl (by decide)
theorem Encoding.evEdge : Encoding.Statement .evEdge := ofWord _ 0 rfl rfl (by decide)
theorem Encoding.evBus (s : Byte) : Encoding.Statement (.evBus s) := ofWord _ _ rfl rfl (by simp [Instr.opcode, Instr.isCommand, Instr.space])
theorem Encoding.intTick : Encoding.Statement .intTick := ofWord _ 0 rfl rfl (by decide)
theorem Encoding.intCap : Encoding.Statement .intCap := ofWord _ 0 rfl rfl (by decide)
theorem Encoding.intBus : Encoding.Statement .intBus := ofWord _ 0 rfl rfl (by decide)

end Sys2Proof.Laws
end

