-- ==== Sys2Proof/Laws/Safety.lean ====
section
/-! SUPPORT. The frame predicates of Safety: the interval registers, and the state a model fault leaves. And the end of
a run: there is at most one, with one observation, which `State.runObservation` computes (70 R256). -/

namespace Sys2Proof.Machine

/-- Every interval register is one of the forty. -/
@[simp] theorem mem_ivRegs (i : Fin 40) : RegName.iv i ∈ ivRegs :=
  List.mem_map.2 ⟨i, List.mem_finRange i, rfl⟩

/-- No other register is. -/
theorem mem_ivRegs_iff (r : RegName) : r ∈ ivRegs ↔ ∃ i, r = .iv i := by
  simp [ivRegs, eq_comm]

/-- Raising a model fault leaves the state of 60 R201. -/
theorem faultedWith_raise (s : State) (f : ModelFault) : FaultedWith f.code s (s.raise f) := rfl

/-- The thread's phase after an entry is as 60 R210 says, whatever else the entry does. -/
theorem woken_of_tph (s t : State) (h : t.tph = s.tph.woken) : Woken s t := by
  unfold Woken
  cases hp : s.tph <;> simp [h, hp, Phase.woken]

/-- A thread that waits is at no successful end, so a hang has no such state from some step on. -/
theorem haltedUnmarked_of_waits (s : State) (h : s.tph.waits = true) : s.haltedUnmarked = false := by
  cases hp : s.tph <;> simp_all [Phase.waits, State.haltedUnmarked]

/-- A run ends successfully at most once. -/
theorem successfulEnd_unique {f : Nat → State} {m n : Nat} (hm : SuccessfulEnd f m) (hn : SuccessfulEnd f n) : m = n := by
  rcases Nat.lt_trichotomy m n with h | h | h
  · exact absurd hm.2.1 (by simp [hn.2.2 m h])
  · exact h
  · exact absurd hn.2.1 (by simp [hm.2.2 n h])

/-- A run has at most one observation, whatever steps follow its end. -/
theorem runObserves_unique {f : Nat → State} {o p : Observation} (ho : RunObserves f o) (hp : RunObserves f p) : o = p := by
  obtain ⟨m, hm, rfl⟩ := ho
  obtain ⟨n, hn, rfl⟩ := hp
  rw [successfulEnd_unique hm hn]

/-- A run whose first state is halted and unmarked ends there; any other ends where the run after its first step does. -/
theorem successfulEnd_succ_iff (f : Nat → State) (n : Nat) :
    SuccessfulEnd f (n + 1) ↔
      (f 0).haltedUnmarked = false ∧ step (f 0) = .next (f 1) ∧ SuccessfulEnd (fun k => f (k + 1)) n := by
  constructor
  · rintro ⟨hr, hn, hf⟩
    exact ⟨hf 0 (by omega), hr 0 (by omega), fun k hk => hr (k + 1) (by omega), hn, fun k hk => hf (k + 1) (by omega)⟩
  · rintro ⟨h0, hs, hr, hn, hf⟩
    refine ⟨fun k hk => ?_, hn, fun k hk => ?_⟩
    · cases k with
      | zero => exact hs
      | succ k => exact hr k (by omega)
    · cases k with
      | zero => exact h0
      | succ k => exact hf k (by omega)

/-- The computed observation is that of the run's first halted, unmarked state, reached within the given steps. -/
theorem runObservation_eq_some_iff (n : Nat) (s : State) (o : Observation) :
    s.runObservation n = some o ↔ ∃ f k, f 0 = s ∧ k ≤ n ∧ SuccessfulEnd f k ∧ o = (f k).observe := by
  have ended : ∀ m (t : State), t.haltedUnmarked = true →
      (some t.observe = some o ↔ ∃ f k, f 0 = t ∧ k ≤ m ∧ SuccessfulEnd f k ∧ o = (f k).observe) := by
    intro m t ht
    constructor
    · intro h
      injection h with h
      exact ⟨fun _ => t, 0, rfl, by omega, ⟨fun _ h => by omega, ht, fun _ h => by omega⟩, h.symm⟩
    · rintro ⟨f, k, rfl, -, hk, rfl⟩
      cases k with
      | zero => rfl
      | succ k => simp [hk.2.2 0 (by omega)] at ht
  induction n generalizing s with
  | zero =>
    unfold State.runObservation
    split
    · exact ended 0 s (by assumption)
    · rename_i hs
      simp only [reduceCtorEq, false_iff]
      rintro ⟨f, k, rfl, hk, he, -⟩
      obtain rfl : k = 0 := by omega
      exact hs he.2.1
  | succ n ih =>
    unfold State.runObservation
    split
    · exact ended (n + 1) s (by assumption)
    · rename_i hs
      have later : (∃ f k, f 0 = s ∧ k ≤ n + 1 ∧ SuccessfulEnd f k ∧ o = (f k).observe) ↔
          ∃ t, step s = .next t ∧ ∃ f k, f 0 = t ∧ k ≤ n ∧ SuccessfulEnd f k ∧ o = (f k).observe := by
        constructor
        · rintro ⟨f, k, rfl, hk, he, rfl⟩
          cases k with
          | zero => exact absurd he.2.1 hs
          | succ k =>
            obtain ⟨-, h1, h2⟩ := (successfulEnd_succ_iff f k).1 he
            exact ⟨f 1, h1, fun k => f (k + 1), k, rfl, by omega, h2, rfl⟩
        · rintro ⟨t, ht, f, k, rfl, hk, he, rfl⟩
          exact ⟨fun k => k.casesOn s f, k + 1, rfl, by omega,
            (successfulEnd_succ_iff _ k).2 ⟨by simpa using hs, ht, he⟩, rfl⟩
      rw [later]
      split <;> rename_i h <;> simp [h, ih, eq_comm]

end Sys2Proof.Machine
end

