-- ==== Sys2Proof/Laws/Step.lean ====
section
/-! SUPPORT. Everything a step can do, once (00 R14, 10 R22, 70 R242): the boot sequence, an event or entry, a command,
a refusal, or a phase step of the thread; the state it starts from differs from the step's in the agenda and the draw
counter only. -/

namespace Sys2Proof.Machine

/-- The word of a run names an event or entry. -/
theorem runWord_isRunWord {w : Word} {i : Instr} (h : runWord w = some i) : i.isRunWord = true := by
  unfold runWord at h
  split at h
  · split at h
    · injection h with h; subst h; assumption
    · cases h
  · cases h

/-- What a launched machine's step o comes down to when it takes the action a, from the state s0 with the action taken
off the run. -/
inductive Taken (a : Action) (s s0 : State) (o : StepOutcome) : Prop where
  /-- An event or entry word of the run. -/
  | runWord (w : Word) (i : Instr) (ha : a = .word w) (h : Machine.runWord w = some i) (ho : o = exec i s0)
  /-- A word that is neither. -/
  | noWord (w : Word) (ho : o = .refused (.notARunWord w))
  /-- The command at pc. -/
  | command (i : Instr) (hp : s.tph = .run) (h : i.isCommand = true) (hf : s.fetch = .ok i) (ho : o = exec i s0)
  /-- No command at pc. -/
  | refusal (hp : s.tph = .run) (r : RefuseReason) (hf : s.fetch = .error r) (ho : o = .next s0.refuse)
  /-- The check of AWAIT. -/
  | awaitCheck (hp : s.tph = .awaitCheck) (ho : o = .next (awaitCheck s0))
  /-- The check of WAITS. -/
  | waitsCheck (hp : s.tph = .waitsCheck) (ho : o = .next (waitsCheck s0))
  /-- The poll of WAITUS. -/
  | waitusPoll (hp : s.tph = .waitusPoll) (ho : o = .next (waitusPoll s0))
  /-- The wait instruction. -/
  | asleep (r : Resume) (hp : s.tph = .preSleep r) (ho : o = .next (fallAsleep r s0))
  /-- A thread without a step. -/
  | noStep (hp : s.tph.hasStep = false) (ho : o = .refused .threadHasNoStep)

/-- The step of an action, from a state that agrees with s where the thread looks. -/
theorem takeAction_taken (a : Action) (s s0 : State) (hp : s0.tph = s.tph) (hf : s0.fetch = s.fetch) :
    Taken a s s0 (takeAction a s0) := by
  cases a with
  | word w =>
    simp only [takeAction]
    split
    · exact .runWord w _ rfl (by assumption) rfl
    · exact .noWord w rfl
  | thread =>
    simp only [takeAction, threadStep, hp]
    split
    · simp only [fetchStep, hf]
      split
      · exact .command _ (by assumption) (fetchAt_isCommand (by assumption)) (by assumption) rfl
      · exact .refusal (by assumption) _ (by assumption) rfl
    · exact .awaitCheck (by assumption) rfl
    · exact .waitsCheck (by assumption) rfl
    · exact .waitusPoll (by assumption) rfl
    · exact .asleep _ (by assumption) rfl
    all_goals exact .noStep (by simp [*, Phase.hasStep]) rfl

/-- Everything a step can do. -/
theorem step_taken (s : State) :
    (s.boot ≠ .launched ∧ step s = .next s.bootStep) ∨
    (s.boot = .launched ∧ ∃ agenda draws, Taken s.nextAction s { s with agenda := agenda, draws := draws } (step s)) := by
  cases hb : s.boot
  case launched =>
    refine .inr ⟨rfl, ?_⟩
    simp only [step, hb, agentStep, State.nextAction]
    split
    · exact ⟨_, _, takeAction_taken _ s _ rfl rfl⟩
    · exact ⟨_, _, takeAction_taken _ s _ rfl rfl⟩
  all_goals exact .inl ⟨by simp, by simp [step, hb]⟩

/-- How a step reaches a next state: boot, an instruction, or a move of the thread alone (a refusal or a phase step),
the last two from a state that differs from the step's in the agenda and the draw counter only. -/
theorem step_next (s t : State) (h : step s = .next t) :
    (s.boot ≠ .launched ∧ t = s.bootStep) ∨
    (s.boot = .launched ∧ ∃ agenda draws,
      (∃ i, exec i { s with agenda := agenda, draws := draws } = .next t ∧
        ((∃ w, s.nextAction = .word w ∧ runWord w = some i) ∨ (i.isCommand = true ∧ s.tph = .run) ∨
          (i = .await ∧ s.tph = .awaitCheck))) ∨
      (s.tph = .run ∧ t = ({ s with agenda := agenda, draws := draws } : State).refuse) ∨
      (s.tph = .waitsCheck ∧ t = Machine.waitsCheck { s with agenda := agenda, draws := draws }) ∨
      (s.tph = .waitusPoll ∧ t = Machine.waitusPoll { s with agenda := agenda, draws := draws }) ∨
      (∃ r, s.tph = .preSleep r ∧ t = fallAsleep r { s with agenda := agenda, draws := draws })) := by
  rcases step_taken s with ⟨hb, h'⟩ | ⟨hb, agenda, draws, h'⟩
  · rw [h'] at h
    injection h with h
    exact .inl ⟨hb, h.symm⟩
  · rw [h] at h'
    refine .inr ⟨hb, agenda, draws, ?_⟩
    cases h'
    case runWord w i ha hi ho => exact .inl ⟨i, ho.symm, .inl ⟨w, ha, hi⟩⟩
    case command i hp hi _ ho => exact .inl ⟨i, ho.symm, .inr (.inl ⟨hi, hp⟩)⟩
    case refusal hp _ _ ho => injection ho with ho; exact .inr (.inl ⟨hp, ho⟩)
    case awaitCheck hp ho => exact .inl ⟨.await, ho.symm, .inr (.inr ⟨rfl, hp⟩)⟩
    case waitsCheck hp ho => injection ho with ho; exact .inr (.inr (.inl ⟨hp, ho⟩))
    case waitusPoll hp ho => injection ho with ho; exact .inr (.inr (.inr (.inl ⟨hp, ho⟩)))
    case asleep r hp ho => injection ho with ho; exact .inr (.inr (.inr (.inr ⟨r, hp, ho⟩)))
    case noWord ho => cases ho
    case noStep ho => cases ho

/-- The induction over a step, packaged: a property that the run's bookkeeping, boot, every instruction and every move
of the thread alone keep is kept by every step. -/
theorem step_keeps (P : State → Prop)
    (hrun : ∀ s agenda draws, P s → P { s with agenda := agenda, draws := draws })
    (hboot : ∀ s, P s → s.boot ≠ .launched → P s.bootStep)
    (hexec : ∀ i s t, P s → s.boot = .launched → exec i s = .next t →
      i.isRunWord = true ∨ (i.isCommand = true ∧ s.tph = .run) ∨ (i = .await ∧ s.tph = .awaitCheck) → P t)
    (hrefuse : ∀ s, P s → s.tph = .run → P s.refuse)
    (hfinish : ∀ s, P s → s.tph = .waitsCheck ∨ s.tph = .waitusPoll → P s.finishWait)
    (hphase : ∀ s p, P s → s.tph = .waitsCheck ∨ s.tph = .waitusPoll ∨ (∃ r, s.tph = .preSleep r) →
      p ≠ .faulted → P (s.setPhase p))
    (s t : State) (hs : P s) (h : step s = .next t) : P t := by
  rcases step_next s t h with ⟨hb, rfl⟩ | ⟨hb, agenda, draws, h⟩
  · exact hboot s hs hb
  · have h0 := hrun s agenda draws hs
    rcases h with ⟨i, hi, hc⟩ | ⟨hp, rfl⟩ | ⟨hp, rfl⟩ | ⟨hp, rfl⟩ | ⟨r, hp, rfl⟩
    · exact hexec i _ t h0 hb hi (hc.imp_left fun ⟨_, _, hw⟩ => runWord_isRunWord hw)
    · exact hrefuse _ h0 hp
    · unfold Machine.waitsCheck
      split
      · exact hfinish _ h0 (.inl hp)
      · exact hphase _ _ h0 (.inl hp) (by simp)
    · unfold Machine.waitusPoll
      split
      · exact hfinish _ h0 (.inr hp)
      · exact hphase _ _ h0 (.inr (.inl hp)) (by simp)
    · exact hphase _ _ h0 (.inr (.inr ⟨r, hp⟩)) (by simp)

end Sys2Proof.Machine
end

