-- ==== Sys2Proof/Laws/Window.lean ====
section
/-! SUPPORT. The bits of a window, and the fields assembled from them most significant first (40 R111, R112). -/

namespace Sys2Proof.Machine

/-- Bit i of the window, for a data edge (40 R111). -/
theorem Window.bit_of_lt (w : Window) (i : Nat) (h : i < 40) :
    w.bit i = decide (w.threshold < w.intervals[i]) := by
  simp [Window.bit, Vector.getElem?_eq_getElem h]

/-- Without bits a field is 0. -/
@[simp] theorem Window.field_zero (w : Window) (start : Nat) : w.field start 0 = 0 := rfl

/-- One bit more at the low end doubles the field. -/
theorem Window.field_succ (w : Window) (start len : Nat) :
    w.field start (len + 1) = 2 * w.field start len + (w.bit (start + len)).toNat := by
  simp only [Window.field, List.range_succ, List.map_append, List.sum_append, List.map_cons, List.map_nil,
    List.sum_cons, List.sum_nil, Nat.add_sub_cancel, Nat.sub_self, Nat.shiftLeft_zero, Nat.add_zero]
  congr 1
  rw [← List.sum_map_mul_left]
  congr 1
  refine List.map_congr_left fun i hi => ?_
  have hi := List.mem_range.1 hi
  rw [Nat.shiftLeft_eq, Nat.shiftLeft_eq, show len - i = (len - 1 - i) + 1 by omega, Nat.pow_succ]
  ring

/-- A field of len bits is below 2 ^ len. -/
theorem Window.field_lt (w : Window) (start len : Nat) : w.field start len < 2 ^ len := by
  induction len with
  | zero => simp
  | succ n ih =>
    rw [Window.field_succ, Nat.pow_succ]
    have := Bool.toNat_le (w.bit (start + n))
    omega

/-- The i-th bit received is bit len - 1 - i of the field (40 R112: the first bit is the most significant). -/
theorem Window.testBit_field (w : Window) (start len i : Nat) (h : i < len) :
    (w.field start len).testBit (len - 1 - i) = w.bit (start + i) := by
  induction len with
  | zero => omega
  | succ n ih =>
    rw [Window.field_succ]
    by_cases hi : i = n
    · subst hi
      cases hb : w.bit (start + i) <;> simp [Nat.testBit_zero]
    · have hin : i < n := by omega
      rw [← ih hin, show n + 1 - 1 - i = (n - 1 - i) + 1 by omega, Nat.testBit_succ]
      congr 1
      have := Bool.toNat_le (w.bit (start + n))
      omega

end Sys2Proof.Machine
end

