-- ==== Sys2Proof/Tests/Slice0.lean ====
section
/-! SUPPORT. Small tests of the model. Expected results are the spec's own: the worked encodings of 30 R95 and the
vectors of 95 (their names stand in the comments), with the illustrative parameters of 00 R9. After them, for every
statement of Obligations with hypotheses, a state and operands that meet the hypotheses together. -/

namespace Sys2Proof.Tests

open Sys2Proof Sys2Proof.Machine

/-! ## Builders -/

/-- What a step leaves, looked at through f. -/
def after (o : StepOutcome) (f : State → α) : Option α :=
  match o with
  | .next t => some (f t)
  | .fault _ => none
  | .refused _ => none

/-- Why there is no step. -/
def refusal (o : StepOutcome) : Option Refusal :=
  match o with
  | .next _ => none
  | .fault _ => none
  | .refused r => some r

/-- The launch state (70 R242) with the parameters of 00 R9. -/
def launch : State := State.launch Params.illustrative [] []

/-- The launch state with a command list, the thread to move. -/
def running (cl : List Word) : State := { State.launch Params.illustrative cl [] with agenda := [.thread] }

/-- The window of V-CAP-1 after its 43 edges. -/
def fullWindow : Window where
  edgeCount := 43
  lastEdge := 4352
  intervals := #v[54, 54, 54, 54, 54, 54, 140, 54, 140, 54, 54, 54, 140, 140, 54, 54,
    54, 54, 54, 54, 54, 54, 54, 140, 54, 54, 54, 54, 140, 54, 140, 140, 140, 54, 54, 140, 140, 54, 140, 54]
  threshold := 100

/-- The launch state with a window. -/
def withWindow (w : Window) : State := { launch with win := w }

/-- The launch state with capture armed and pending, EC, LET and ICR given. -/
def capturing (ec : Nat) (last ts : Half) : State :=
  { launch with
    win := { launch.win with edgeCount := ec, lastEdge := last }
    clk := { launch.clk with icr := ts }
    irq := { launch.irq with ieCap := true, ifCap := true } }

/-- The launch state in a state of the bus, with a completion of status st pending or an operation in flight. -/
def onBus (b : BusState) (st : Byte) (pending : Bool) (ptr rem : Half) : State :=
  { launch with
    bus := { launch.bus with
      bst := b, baddr := 0x27, bbase := 0x0100, blen := 2, bptr := ptr, brem := rem, bstat := st, bhw := !pending }
    irq := { launch.irq with ifBus := pending }
    mem := [(0x0100, 0x41), (0x0101, 0x42)] }

/-! ## Decoding (30 R95; 95 V-ENC) -/

theorem test_decode_noOperand :
    decodeWords [0x00000000] = .ok .endRun ∧ decodeWords [0x01000000] = .ok .arm ∧
      decodeWords [0x02000000] = .ok .disarm ∧ decodeWords [0x03000000] = .ok .decode ∧
      decodeWords [0x11000000] = .ok .await ∧ decodeWords [0x22000000] = .ok .now := by decide

theorem test_decode_platform :
    decodeWords [0x30000000] = .ok .csenter ∧ decodeWords [0x31000000] = .ok .csexit ∧
      decodeWords [0x32000000] = .ok .sleep ∧ decodeWords [0x40010041] = .ok (.stb 0x0100 0x41) := by decide

theorem test_decode_waits :
    decodeWords [0x20000001] = .ok (.waits 1) ∧ decodeWords [0x20000000] = .ok (.waits 0) ∧
      decodeWords [0x21000064] = .ok (.waitus 100) ∧ decodeWords [0x2100000A] = .ok (.waitus 10) := by decide

theorem test_decode_submit :
    decodeWords [0x104E0002, 0x00000100] = .ok (.submit 0x27 2 0x0100) ∧
      decodeWords [0x10780001, 0x00000200] = .ok (.submit 0x3C 1 0x0200) := by decide

theorem test_decode_events :
    decodeWords [0x80000000] = .ok .evTcnt ∧ decodeWords [0x81000000] = .ok .evEdge ∧
      decodeWords [0x82000018] = .ok (.evBus 0x18) := by decide

theorem test_decode_entries :
    decodeWords [0x90000000] = .ok .intTick ∧ decodeWords [0x91000000] = .ok .intCap ∧
      decodeWords [0x92000000] = .ok .intBus := by decide

/-- V-ENC-R1 to R9: each refused fetch, by name. -/
theorem test_fetch_refusals :
    fetchAt [0x05000000] 0 = .error .opcode ∧ fetchAt [0x01000001] 0 = .error .reserved ∧
      fetchAt [0x104E0001] 0 = .error .submitTail ∧ fetchAt [0x104F0001, 0x00000100] 0 = .error .reserved ∧
      fetchAt [0x104E0001, 0x00010100] 0 = .error .reserved ∧ fetchAt [0x80000000] 0 = .error .opcode ∧
      fetchAt [0x90000000] 0 = .error .opcode ∧ fetchAt [0x22000000] 1 = .error .pcRange ∧
      fetchAt [] 0 = .error .pcRange := by decide

/-- 30 R86: bits 23..8 of EV_BUS are reserved. -/
theorem test_decode_evBus_reserved : decodeWords [0x82000118] = .error .reserved := by decide

/-- The table's numbering of SUBMIT's two words (30 R84): the second word counts on from bit 32. -/
theorem test_decode_table :
    decodeTableWord 64 0x00000100104E0002 = some (.submit 0x27 2 0x0100) ∧
      decodeTableWord 32 0x40010041 = some (.stb 0x0100 0x41) := by decide

/-! ## Well-formedness: an ill-formed term for each check -/

theorem test_wellFormed_space :
    Instr.evTcnt.isCommand = false ∧ Instr.arm.isRunWord = false ∧ Instr.intCap.wellFormedIn .event = false ∧
      Instr.arm.wellFormedIn .command = true ∧ commandListWellFormed [.arm, .intBus] = false ∧
      commandListWellFormed [.arm, .endRun] = true := by decide

theorem test_wellFormed_lines :
    (AsmLine.plain (.waits 1)).wellFormed = false ∧ (AsmLine.plain .evEdge).wellFormed = false ∧
      (AsmLine.submit 128 1 0).wellFormed = false ∧ (AsmLine.submit 0 65536 0).wellFormed = false ∧
      (AsmLine.submit 0 1 65536).wellFormed = false ∧ (AsmLine.waits 16777216).wellFormed = false ∧
      (AsmLine.waitus 16777216).wellFormed = false ∧ (AsmLine.stb 65536 0).wellFormed = false ∧
      (AsmLine.stb 0 256).wellFormed = false := by decide

theorem test_assemble :
    (AsmLine.submit 0x27 2 0x0100).assemble = some (.submit 0x27 2 0x0100) ∧
      (AsmLine.submit 128 1 0).assemble = none ∧ (SourceCall.twiSendCommand 0x27 2 0x0100).expand.assemble =
        some (.submit 0x27 2 0x0100) := by decide

/-! ## Steps -/

/-- V-PLT-9. -/
theorem test_end : after (step (running [0x00000000])) (fun t => (t.tph, t.pc)) = some (.halted, 0) := by decide

/-- R180's example: `[END]` ends at once, every register at its launch value. And a bus interrupt taken after END, which
puts STOP on the bus, is no part of the observation. -/
theorem test_end_observation :
    (running [0x00000000]).runObservation 1 = some launch.observe ∧
    (let s : State := { onBus .dataSending 0x28 true 0x0102 0 with
      cl := [0x00000000], agenda := [.thread, .word 0x92000000] };
      s.runObservation 2 = some s.observe ∧ s.observe.btrace = []) := by decide

/-- V-CAP-19, and R101's example. -/
theorem test_arm : after (exec .arm { withWindow fullWindow with irq := { launch.irq with ifCap := true } })
    (fun t => (t.win.edgeCount, t.win.threshold, t.irq.ieCap, t.irq.ifCap, t.pc)) = some (0, 100, true, false, 1) := by
  decide

/-- V-CAP-15. -/
theorem test_arm_armed : after (exec .arm (capturing 43 0 0)) (fun t => (t.fault, t.tph, t.pc, t.win.edgeCount)) =
    some (1, .faulted, 0, 43) := by decide

/-- V-CAP-17: an edge pending at DISARM stays pending. -/
theorem test_disarm : after (exec .disarm (capturing 5 0 0)) (fun t => (t.irq.ieCap, t.irq.ifCap, t.pc)) =
    some (false, true, 1) := by decide

/-- V-CAP-1. -/
theorem test_decode_valid : after (exec .decode (withWindow fullWindow))
    (fun t => (t.res.rval, t.res.rhum, t.res.rtemp)) = some (.valid, 0x028C, 0x010B) := by decide

/-- V-CAP-2 and V-CAP-3: the last data bit sent as 1, and 42 edges. -/
theorem test_decode_invalid :
    after (exec .decode (withWindow { fullWindow with intervals := fullWindow.intervals.set 39 140 }))
      (fun t => (t.res.rval, t.res.rhum)) = some (.parityError, 0x028C) ∧
    after (exec .decode (withWindow { fullWindow with edgeCount := 42 })) (fun t => (t.res.rval, t.pc)) =
      some (.incomplete, 1) := by decide

/-- R131's example. -/
theorem test_submit : after (step (running [0x104E0002, 0x00000100]))
    (fun t => (t.bus.bst, t.bus.baddr, t.bus.bptr, t.bus.btrace, t.pc)) =
    some (.starting, 0x27, 0x0100, [.start], 2) := by decide

/-- V-BUS-7 and V-BUS-8. -/
theorem test_submit_faults :
    after (step (running [0x10000000, 0x00000100])) (fun t => (t.fault, t.bus.bst, t.pc)) = some (4, .idle, 0) ∧
    after (step (running [0x104E0002, 0x0000FFFF])) (fun t => (t.fault, t.bus.btrace)) = some (5, []) := by decide

/-- V-BUS-10. -/
theorem test_await_done : after (exec .await (onBus .stopped 0x28 false 0x0102 0))
    (fun t => (t.res.rsucc, t.res.rerr, t.tph, t.pc)) = some (true, 0, .run, 1) := by decide

/-- V-BUS-12: at launch the first check fails. -/
theorem test_await_idle : after (step (running [0x11000000])) (fun t => (t.tph, t.pc)) =
    some (.preSleep .awaitCheck, 0) := by decide

/-- V-SCH-5 and V-SCH-6. -/
theorem test_waits :
    after (exec (.waits 1) { launch with clk := { launch.clk with ticks := 0xFFFFFFCE } })
      (fun t => (t.clk.wtarget, t.tph, t.pc)) = some (50, .waitsCheck, 0) ∧
    after (exec (.waits 3) { launch with clk := { launch.clk with ticks := 7 } }) (·.clk.wtarget) = some 307 := by
  decide

/-- V-SCH-4. -/
theorem test_waits_zero : after (step (running [0x20000000])) (fun t => (t.pc, t.tph)) = some (1, .run) := by decide

/-- V-SCH-8 and V-SCH-10: WLO across the wrap, and a window that straddles it. -/
theorem test_waitus :
    after (exec (.waitus 10) { launch with clk := { launch.clk with tcnt := 19990 } })
      (fun t => (t.clk.wlo, t.tph)) = some (10, .waitusPoll) ∧
    [19997, 19998, 19999, 0, 1, 2].map (fun c =>
      ({ launch with clk := { launch.clk with tcnt := c, wlo := 19998 } } : State).inFineWindow) =
      [false, true, true, true, true, false] := by decide

/-- V-SCH-11 and V-SCH-12. -/
theorem test_waitus_range :
    after (exec (.waitus 9998) launch) (·.fault) = some 0 ∧
    after (exec (.waitus 9999) launch) (fun t => (t.fault, t.tph)) = some (9, .faulted) := by decide

/-- V-SCH-3. -/
theorem test_now : after (exec .now { launch with clk := { launch.clk with ticks := 105 } })
    (fun t => (t.res.rnow, t.pc)) = some (105, 1) := by decide

/-- V-PLT-1. -/
theorem test_csenter : after (step (running [0x30000000]))
    (fun t => (t.irq.gie, t.irq.csSaved, t.irq.csActive)) = some (false, true, true) := by decide

/-- V-PLT-4. -/
theorem test_csexit : after (step (running [0x31000000])) (fun t => (t.fault, t.tph, t.pc)) =
    some (8, .faulted, 0) := by decide

/-- V-PLT-5, the command. -/
theorem test_sleep : after (step (running [0x32000000])) (fun t => (t.tph, t.pc)) = some (.sleeping .run, 1) := by
  decide

/-- V-PLT-7. -/
theorem test_stb : after (step (running [0x40010041])) (fun t => (t.mem, t.pc)) = some ([(0x0100, 0x41)], 1) := by
  decide

/-- V-BUS-9 and V-PLT-8. -/
theorem test_stb_faults :
    after (exec (.stb 0x0101 0x41) (onBus .starting 0 false 0x0100 2)) (fun t => (t.fault, t.mem.read 0x0101)) =
      some (6, 0x42) ∧
    after (exec (.stb 0x2000 0x01) { launch with params := { Params.illustrative with memSize := 0x1000 } })
      (fun t => (t.fault, t.mem)) = some (5, []) := by decide

/-- V-SCH-14. -/
theorem test_evTcnt : after (exec .evTcnt { launch with clk := { launch.clk with tcnt := 19999 } })
    (fun t => (t.clk.tcnt, t.irq.ifTick)) = some (0, true) := by decide

/-- V-CAP-20: a second edge before the first is taken. -/
theorem test_evEdge : after (exec .evEdge { capturing 0 0 1000 with clk := { launch.clk with tcnt := 1054 } })
    (fun t => (t.clk.icr, t.irq.ifCap)) = some (1054, true) := by decide

/-- V-EXC-5, and the completion of an operation in flight. -/
theorem test_evBus :
    refusal (exec (.evBus 0x08) launch) = some .noBusOperation ∧
    after (exec (.evBus 0x08) (onBus .starting 0 false 0x0100 2))
      (fun t => (t.bus.bstat, t.irq.ifBus, t.bus.bhw)) = some (0x08, true, false) := by decide

/-- V-SCH-2, and the wake of V-PLT-5. -/
theorem test_intTick :
    after (exec .intTick { launch with
        clk := { launch.clk with ticks := 0xFFFFFFFF }, irq := { launch.irq with ifTick := true },
        tph := .sleeping .run }) (fun t => (t.clk.ticks, t.irq.ifTick, t.tph)) = some (0, false, .run) := by decide

/-- V-EXC-2: no entry for a source that is not enabled. -/
theorem test_intCap_masked :
    refusal (exec .intCap { launch with irq := { launch.irq with ifCap := true } }) =
      some (.entryNotEnabled .capture) := by decide

/-- V-CAP-11 to V-CAP-14: data, last data edge, discard, wrap. -/
theorem test_intCap :
    after (exec .intCap (capturing 2 1160 1214)) (fun t => (t.win.edgeCount, t.win.intervals[0], t.win.lastEdge)) =
      some (3, 54, 1214) ∧
    after (exec .intCap (capturing 41 4298 4352)) (fun t => (t.win.edgeCount, t.win.intervals[39])) = some (42, 54) ∧
    after (exec .intCap (capturing 42 4352 4406)) (fun t => (t.win.edgeCount, t.win.lastEdge)) = some (43, 4352) ∧
    after (exec .intCap (capturing 65535 0 77)) (fun t => (t.win.edgeCount, t.win.lastEdge)) = some (0, 77) := by
  decide

/-- V-BUS-1 and V-BUS-2: the address byte after a start, and an unexpected status. -/
theorem test_intBus_start :
    after (exec .intBus (onBus .starting 0x08 true 0x0100 2)) (fun t => (t.bus.bst, t.bus.btrace, t.bus.bhw)) =
      some (.addressSent, [.write 0x4E], true) ∧
    after (exec .intBus (onBus .starting 0x38 true 0x0100 2)) (fun t => (t.bus.bst, t.bus.berr, t.bus.btrace)) =
      some (.error, 0x38, []) := by decide

/-- R136's example, and the stop of V-BUS-1. -/
theorem test_intBus_data :
    after (exec .intBus (onBus .addressSent 0x18 true 0x0100 2))
      (fun t => (t.bus.bst, t.bus.btrace, t.bus.bptr, t.bus.brem)) = some (.dataSending, [.write 0x41], 0x0101, 1) ∧
    after (exec .intBus (onBus .dataSending 0x28 true 0x0102 0)) (fun t => (t.bus.bst, t.bus.btrace, t.bus.bhw)) =
      some (.stopped, [.stop], false) := by decide

/-- S1 to S3 and the tables of 40: intervals, temperatures, address bytes (V-BUS-13). -/
theorem test_operands :
    interval 20000 10 19995 = 15 ∧ interval 20000 500 500 = 20000 ∧ interval 20000 60 19900 = 160 ∧
      temperatureTenths 0x8019 = -25 ∧ temperatureTenths 0x8065 = -101 ∧ temperatureTenths 0xFFFF = -32767 ∧
      addrByte 0x7F = 0xFE ∧ addrByte 0x3C = 0x78 := by decide

/-- Every row of the table runs as the first instruction after reset, from SUBMIT's two words to an entry. -/
theorem test_first_instruction :
    (after (step (State.reset.withFetchWord 64 0x00000100104E0002)) fun _ => ()) = some () ∧
      (after (step (State.reset.withFetchWord 32 0x82000018)) fun _ => ()) = some () ∧
      (after (step (State.reset.withFetchWord 32 0x92000000)) fun _ => ()) = some () := by decide

/-! ## Witnesses: the hypotheses of each statement can be met together, each clause at a boundary -/

/-- The parameters of 00 R9 are legal. -/
theorem illustrative_legal : Params.illustrative.Legal := by decide

/-- Two words, of which a one-word instruction takes the first, and SUBMIT both. -/
theorem witness_DecodedWordsAreTheEncoding :
    decodeWords [0x104E0002, 0x00000100] = .ok (.submit 0x27 2 0x0100) ∧
      decodeWords [0x40010041, 0x104E0002] = .ok (.stb 0x0100 0x41) ∧ opField 0x40010041 ≠ 0x10 := by decide

/-- One state for each clause: pc at the end, an unassigned and an event opcode, operand bits on END, no tail, the rw
bit, a reserved half of the tail, and a command that runs. -/
theorem witness_FetchRefusesOrRunsTheCommand :
    launch.tph = .run ∧ launch.cl.length ≤ launch.pc ∧
    opField 0x05000000 ∉ commandOpcodes ∧ opField 0x80000000 ∉ commandOpcodes ∧
    (opField 0x00000001 = 0x00 ∧ operandField 0x00000001 ≠ 0) ∧
    (opField 0x104E0001 = 0x10 ∧ (running [0x104E0001]).cl.length ≤ (running [0x104E0001]).pc + 1) ∧
    (0x104F0001 : Word).getLsbD 16 = true ∧ (0x00010100 : Word).extractLsb' 16 16 ≠ 0 ∧
    (Instr.submit 0x27 2 0x0100).isCommand = true ∧
    ((running [0x104E0002, 0x00000100]).cl.drop 0).take (Instr.submit 0x27 2 0x0100).length =
      encode (.submit 0x27 2 0x0100) := by decide

theorem witness_StepRunsTheDecodedInstruction :
    ((running [0x22000000]).boot = .launched ∧ (running [0x22000000]).agenda = [.thread] ∧
      (running [0x22000000]).tph = .run ∧ (running [0x22000000]).fetch = .ok .now) ∧
    (launch.boot = .launched ∧ decodeWords [0x80000000] = .ok .evTcnt ∧ Instr.evTcnt.isRunWord = true) := by decide

/-- A sleeping thread has no step, a timer step is always enabled. -/
theorem witness_ExactlyTheEnabledActionsHaveAStep :
    actionEnabled timerAction { launch with tph := .sleeping .run } = true ∧
      actionEnabled .thread { launch with tph := .sleeping .run } = false ∧
      actionEnabled (.word 0x90000000) launch = false := by decide

theorem witness_FreeChoiceTakesAnEnabledAction : launch.boot = .launched ∧ launch.agenda = [] := by decide

theorem witness_BootReachesTheLaunchState :
    Params.illustrative.Legal ∧ Memory.wf [(0x0100, 0x41), (0xFFFF, 0x42)] ∧
      Memory.below Params.illustrative.memSize [(0x0100, 0x41), (0xFFFF, 0x42)] := by decide

theorem witness_ArmOpensAWindow : launch.irq.ieCap = false ∧ (capturing 0 0 0).irq.ieCap = true := by decide

/-- 42 edges and 43. -/
theorem witness_DecodeReadsTheWindow :
    (capturing 43 0 0).irq.ieCap = true ∧
    ((withWindow { fullWindow with edgeCount := 42 }).irq.ieCap = false ∧
      (withWindow { fullWindow with edgeCount := 42 }).win.edgeCount < 43) ∧
    ((withWindow fullWindow).irq.ieCap = false ∧ 43 ≤ (withWindow fullWindow).win.edgeCount) := by decide

/-- An interval equal to the threshold in each field, THR = 0xFFFF, and THR = 0 with a zero and a non-zero interval. -/
theorem witness_ThresholdCorners :
    (let s := withWindow { fullWindow with threshold := 54 };
      s.irq.ieCap = false ∧ 43 ≤ s.win.edgeCount ∧ s.win.intervals[0] = s.win.threshold ∧
        s.win.intervals[16] = s.win.threshold ∧ s.win.intervals[39] = s.win.threshold) ∧
    (let s := withWindow { fullWindow with threshold := 0xFFFF };
      s.irq.ieCap = false ∧ 43 ≤ s.win.edgeCount ∧ s.win.threshold = 0xFFFF) ∧
    (let s := withWindow { fullWindow with threshold := 0, intervals := fullWindow.intervals.set 39 0 };
      s.irq.ieCap = false ∧ 43 ≤ s.win.edgeCount ∧ s.win.threshold = 0 ∧ s.win.intervals[39] = 0) := by decide

/-- Two states with one window, and a command of an Idle window that is not ARM. -/
theorem witness_DecodeIsRepeatable :
    ((withWindow fullWindow).win = { withWindow fullWindow with pc := 7 }.win ∧
      (withWindow fullWindow).irq.ieCap = false) ∧ Instr.disarm ≠ .arm ∧
    ∃ t, exec .disarm (withWindow fullWindow) = .next t := ⟨by decide, by decide, _, rfl⟩

/-- A period of 20000 and the least period, on both sides of equality. -/
theorem witness_IntervalAccountsForOneWrap :
    ((2 : Nat) ≤ 20000 ∧ (20000 : Nat) ≤ 65535 ∧ (1214 : Half).toNat < 20000 ∧ (1160 : Half).toNat < (1214 : Half).toNat) ∧
      ((10 : Half).toNat ≤ (19995 : Half).toNat ∧ (19995 : Half).toNat < 20000) ∧
      ((2 : Nat) ≤ 2 ∧ (1 : Half).toNat < 2 ∧ (1 : Half).toNat ≤ (1 : Half).toNat) := by decide

/-- The counts 0, 2, 3, 42 and 43 after the increment. -/
theorem witness_CaptureEntryRecordsTheEdge :
    ∀ ec ∈ [65535, 1, 2, 41, 42], (capturing ec 1160 1214).irq.gie = true ∧ (capturing ec 1160 1214).irq.ieCap = true ∧
      (capturing ec 1160 1214).irq.ifCap = true := by decide

/-- A capture entry short of the wrap, and the one that wraps. -/
theorem witness_EdgeCountOnlyCountsUp :
    (∃ t, exec .intCap (capturing 65534 0 5) = .next t) ∧ (capturing 65534 0 5).win.edgeCount + 1 < 2 ^ 16 ∧
      (∃ t, exec .intCap (capturing 65535 0 5) = .next t) ∧ (capturing 65535 0 5).win.edgeCount + 1 = 2 ^ 16 :=
  ⟨⟨_, rfl⟩, by decide, ⟨_, rfl⟩, by decide⟩

/-- Busy; len 0; a buffer that ends one past data memory; one that ends with it. -/
theorem witness_SubmitChecksThenStarts :
    (onBus .dataSending 0 false 0x0101 1).bus.bst = .dataSending ∧ launch.bus.bst = .idle ∧
      launch.params.memSize < (0xFFFF : Half).toNat + (2 : Half).toNat ∧
      (0xFFFF : Half).toNat + (1 : Half).toNat ≤ launch.params.memSize ∧ (1 : Half) ≠ 0 := by decide

theorem witness_AwaitCompletesOnlyAtStopped :
    (onBus .stopped 0x28 false 0x0102 0).bus.bst = .stopped ∧ launch.bus.bst ≠ .stopped ∧
      ({ launch with tph := .awaitCheck } : State).tph = .awaitCheck := by decide

/-- A start, a repeated start, and another status. -/
theorem witness_BusEntryInStarting :
    let s (st : Byte) : State := onBus .starting st true 0x0100 2
    (s 0x08).irq.gie = true ∧ (s 0x08).irq.ieBus = true ∧ (s 0x08).irq.ifBus = true ∧ (s 0x08).bus.bst = .starting ∧
      (s 0x08).bus.bstat = (s 0x08).params.stStart ∧ (s 0x10).bus.bstat = (s 0x10).params.stRepStart ∧
      (s 0x38).bus.bstat ≠ (s 0x38).params.stStart ∧ (s 0x38).bus.bstat ≠ (s 0x38).params.stRepStart := by decide

/-- A bus interrupt that is taken in state b. -/
abbrev TakenOnBus (b : BusState) (s : State) : Prop :=
  s.irq.gie = true ∧ s.irq.ieBus = true ∧ s.irq.ifBus = true ∧ s.bus.bst = b

/-- Acknowledged with BPTR at the last byte of data memory and just past it, and not acknowledged. -/
theorem witness_BusEntryInAddressSent :
    (let s : State := onBus .addressSent 0x18 true 0xFFFF 1;
      TakenOnBus .addressSent s ∧ s.bus.bstat = s.params.stSlawAck ∧ s.bus.bptr.toNat < s.params.memSize) ∧
    (let s : State := { onBus .addressSent 0x18 true 0x0100 1 with params := { Params.illustrative with memSize := 0x0100 } };
      TakenOnBus .addressSent s ∧ s.bus.bstat = s.params.stSlawAck ∧ s.params.memSize ≤ s.bus.bptr.toNat) ∧
    (let s : State := onBus .addressSent 0x20 true 0x0100 1;
      TakenOnBus .addressSent s ∧ s.bus.bstat ≠ s.params.stSlawAck) := by decide

/-- A byte left, with BPTR inside data memory and just past it; none left; not acknowledged. -/
theorem witness_BusEntryInDataSending :
    (let s : State := onBus .dataSending 0x28 true 0xFFFF 1;
      TakenOnBus .dataSending s ∧ s.bus.bstat = s.params.stDataAck ∧ s.bus.brem ≠ 0 ∧
        s.bus.bptr.toNat < s.params.memSize) ∧
    (let s : State := { onBus .dataSending 0x28 true 0x0101 1 with params := { Params.illustrative with memSize := 0x0101 } };
      TakenOnBus .dataSending s ∧ s.bus.bstat = s.params.stDataAck ∧ s.bus.brem ≠ 0 ∧
        s.params.memSize ≤ s.bus.bptr.toNat) ∧
    (let s : State := onBus .dataSending 0x28 true 0x0102 0;
      TakenOnBus .dataSending s ∧ s.bus.bstat = s.params.stDataAck ∧ s.bus.brem = 0) ∧
    (let s : State := onBus .dataSending 0x30 true 0x0101 1;
      TakenOnBus .dataSending s ∧ s.bus.bstat ≠ s.params.stDataAck) := by decide

theorem witness_BusEntryInTerminalStates :
    ∀ b ∈ [BusState.idle, .stopped, .error], (onBus b 0 true 0 0).irq.gie = true ∧ (onBus b 0 true 0 0).irq.ieBus = true ∧
      (onBus b 0 true 0 0).irq.ifBus = true ∧ (onBus b 0 true 0 0).bus.bst = b := by decide

/-- A step into Error, and a step that stays in it. -/
theorem witness_ErrorLatchesTheStatus :
    (∃ t, exec .intBus (onBus .starting 0x38 true 0x0100 2) = .next t ∧ t.bus.bst = .error ∧ t.bus.berr ≠ 0) ∧
      ∃ t, exec .await (onBus .error 0x38 false 0x0100 2) = .next t ∧ t.bus.bst = .error :=
  ⟨⟨_, rfl, rfl, by decide⟩, _, rfl, rfl⟩

/-- A transition by SUBMIT and one by the bus interrupt. -/
theorem witness_BusStateFollowsTheTable :
    (∃ t, exec (.submit 0x27 1 0x0100) launch = .next t ∧ t.bus.bst = .starting) ∧
      ∃ t, exec .intBus (onBus .dataSending 0x28 true 0x0102 0) = .next t ∧ t.bus.bst = .stopped :=
  ⟨⟨_, rfl, rfl⟩, _, rfl, rfl⟩

/-- A one-byte buffer at the end of data memory, and the launch state. -/
theorem witness_AcknowledgedTransactionSendsThePayload :
    launch.params.Legal ∧ launch.irq.gie = true ∧ launch.irq.ieBus = true ∧ launch.bus.bst = .idle ∧ (1 : Half) ≠ 0 ∧
      (0xFFFF : Half).toNat + (1 : Half).toNat ≤ launch.params.memSize ∧ (0x08 : Byte) = launch.params.stStart ∧
      (0x10 : Byte) = launch.params.stRepStart := by decide

/-- The bus after an error: nothing in flight, nothing pending. -/
def errorBus : State := { launch with bus := { launch.bus with bst := .error, berr := 0x20 } }

theorem witness_AfterErrorTheBusIsSilent :
    BusInv errorBus ∧ errorBus.bus.bst = .error ∧ ∃ t, exec .now errorBus = .next t :=
  ⟨⟨illustrative_legal, rfl, rfl⟩, rfl, _, rfl⟩

/-- A tick pending and enabled, with TICKS at its last value. -/
theorem witness_TickEntryCountsOneTick :
    let s : State := { launch with
      irq := { launch.irq with ifTick := true }, clk := { launch.clk with ticks := 0xFFFFFFFF } }
    s.irq.gie = true ∧ s.irq.ieTick = true ∧ s.irq.ifTick = true ∧ s.clk.ticks + 1 = 2 ^ s.params.tickBits := by decide

theorem witness_WaitsSetsTheTarget : (0 : BitVec 24) = 0 ∧ (16777215 : BitVec 24) ≠ 0 := by decide

/-- The target reached, and passed by one. -/
theorem witness_WaitsCompletesAtEquality :
    let s (n : Nat) : State := { launch with tph := .waitsCheck, clk := { launch.clk with ticks := n, wtarget := 100 } }
    (s 100).tph = .waitsCheck ∧ (s 100).clk.ticks = (s 100).clk.wtarget ∧ (s 101).clk.ticks ≠ (s 101).clk.wtarget := by
  decide

/-- A window that ends with the period, and the next longer delay. -/
theorem witness_WaitusSetsTheWindow :
    launch.params.Legal ∧ launch.params.usToCounts.counts 9998 + launch.params.guardBand ≤ launch.params.period ∧
      launch.params.period < launch.params.usToCounts.counts 9999 + launch.params.guardBand := by decide

/-- TCNT at both ends of a window across the wrap, and just outside it. -/
theorem witness_WaitusPollsTheWindow :
    ∀ c ∈ [19998, 1, 19997, 2], ({ launch with
      tph := .waitusPoll, clk := { launch.clk with tcnt := BitVec.ofNat 16 c, wlo := 19998 } } : State).value .tcnt <
        launch.params.period ∧ launch.params.Legal ∧ (19998 : Half).toNat < launch.params.period := by decide

/-- The least and the longest delay. -/
theorem witness_FineDelayLastsAtLeastOneCount :
    launch.params.Legal ∧ launch.value .tcnt < launch.params.period ∧
      0 < launch.params.usToCounts.counts 1 ∧
      launch.params.usToCounts.counts 9998 + launch.params.guardBand = launch.params.period := by decide

/-- Outside a critical section, and the state inside it. -/
theorem witness_CsenterMasksInterrupts : launch.irq.csActive = false ∧
    after (exec .csenter launch) (·.irq.csActive) = some true := by decide

theorem witness_CsexitRestoresInterrupts : launch.irq.csActive = false ∧
    after (exec .csenter launch) (·.irq.csActive) = some true := by decide

theorem witness_CriticalSectionRoundTrip : launch.irq.csActive = false := by decide

theorem witness_SleepWaitsForAnInterrupt :
    ({ launch with tph := .preSleep .waitsCheck } : State).tph = .preSleep .waitsCheck ∧
    (let s : State := { launch with tph := .sleeping .run, irq := { launch.irq with ifTick := true } };
      s.tph = .sleeping .run ∧ after (exec Source.tick.entry s) (·.tph) = some .run ∧ Instr.evEdge.space = .event ∧
        after (exec .evEdge s) (·.tph) = some (.sleeping .run)) := by decide

/-- A halted thread, and a run whose first step is END. -/
theorem witness_EndHaltsTheThread :
    ({ launch with tph := .halted } : State).tph = .halted ∧
    ∃ f : Nat → State, IsRunUpTo f 1 ∧ (f 0).boot = .launched ∧ (f 0).nextAction = .thread ∧ (f 0).tph = .run ∧
      (f 0).fetch = .ok .endRun ∧ (f 0).fault = 0 ∧ (f 0).refused = false := by
  refine ⟨rfl, fun k => if k = 0 then running [0x00000000] else { running [0x00000000] with
    agenda := [], tph := .halted }, fun k hk => ?_, rfl, rfl, rfl, rfl, rfl, rfl⟩
  obtain rfl : k = 0 := by omega
  rfl

/-- The first address past data memory; both ends of a borrowed buffer; the address after it. -/
theorem witness_StbWritesOneByte :
    MemoryInv (onBus .starting 0 false 0x0100 2) ∧ MemoryInv { launch with params := { Params.illustrative with memSize := 0x1000 } } ∧
    0x1000 ≤ (0x1000 : Half).toNat ∧
    (onBus .starting 0 false 0x0100 2).borrowed 0x0100 = true ∧ (onBus .starting 0 false 0x0100 2).borrowed 0x0101 = true ∧
    (onBus .starting 0 false 0x0100 2).borrowed 0x0102 = false ∧ (onBus .starting 0 false 0x0100 2).borrowed 0x00FF = false :=
  ⟨⟨by decide, by decide⟩, ⟨by decide, by decide⟩, by decide, by decide, by decide, by decide, by decide⟩

/-- An entry of each source. -/
theorem witness_EntryKeepsTheThread :
    (∃ t, exec Source.capture.entry (capturing 2 1160 1214) = .next t) ∧
    (∃ t, exec Source.bus.entry (onBus .starting 0x08 true 0x0100 2) = .next t) ∧
    ∃ t, exec Source.tick.entry { launch with irq := { launch.irq with ifTick := true }, tph := .sleeping .run } =
      .next t := ⟨⟨_, rfl⟩, ⟨_, rfl⟩, _, rfl⟩

/-- TCNT at the end of the period and before it. -/
theorem witness_TimerStepCountsAndWraps :
    ∀ c ∈ [19999, 19998], ({ launch with clk := { launch.clk with tcnt := BitVec.ofNat 16 c } } : State).value .tcnt <
      launch.params.period ∧ launch.params.Legal := by decide

theorem witness_BusctlStepCompletesTheOperation :
    (onBus .starting 0 false 0x0100 2).bus.bhw = true ∧ launch.bus.bhw = false := by decide

/-- A command that completes and a register its rules do not name. -/
theorem witness_OnlyTheNamedRegistersAreWritten :
    (∃ t, exec .arm launch = .next t) ∧ writesRegister .arm .rval = false ∧ writesRegister .arm .ec = true :=
  ⟨⟨_, rfl⟩, by decide, by decide⟩

/-- A STB, and an address next to the one it writes. -/
theorem witness_OnlyStbWritesMemory :
    (∃ t, exec (.stb 0x0100 0x41) launch = .next t) ∧ (0x0100 : Half).toNat ≠ 0x0101 := ⟨⟨_, rfl⟩, by decide⟩

/-! The statements about every step, witnessed by steps of a launched machine. -/

/-- A step that puts an action on the bus, takes a byte of a transaction, and keeps the arguments. -/
theorem witness_BusTraceOnlyGrows :
    ∃ t, step { onBus .starting 0x08 true 0x0100 2 with agenda := [.word 0x92000000] } = .next t ∧
      t.bus.btrace = [.write 0x4E] := ⟨_, rfl, by decide⟩

theorem witness_ArgumentsNeverChange : ∃ t, step (running [0x22000000]) = .next t := ⟨_, rfl⟩

/-- A busy transaction, a step, and a borrowed address. -/
theorem witness_BorrowedPayloadIsStable :
    let s : State := { onBus .dataSending 0x28 true 0x0101 1 with agenda := [.word 0x92000000] }
    (∃ t, step s = .next t) ∧ s.bus.bst = .dataSending ∧ s.value .bbase ≤ 0x0101 ∧
      0x0101 < s.value .bbase + s.value .blen := ⟨⟨_, rfl⟩, by decide, by decide, by decide⟩

/-- A timer step beside a halted, a faulted and a sleeping thread, and the entry that wakes it. -/
theorem witness_PhasesAreLeftByTheirOwners :
    (∀ p ∈ [Phase.halted, .faulted, .sleeping .waitsCheck],
      after (step { launch with tph := p, agenda := [timerAction] }) (·.tph) = some p) ∧
    (let s : State := { launch with
        tph := .sleeping .waitsCheck, irq := { launch.irq with ifTick := true }, agenda := [.word 0x90000000] };
      after (step s) (·.tph) = some .waitsCheck ∧ s.nextAction = .word 0x90000000 ∧
        runWord 0x90000000 = some Source.tick.entry ∧ s.entryEnabled .tick = true) := by decide

/-- A faulted and a refused machine, and a timer step. -/
theorem witness_MarksAreSticky :
    after (step { launch with tph := .faulted, fault := 3, agenda := [timerAction] }) (·.fault) = some 3 ∧
      after (step { launch with tph := .faulted, refused := true, agenda := [timerAction] }) (·.refused) = some true := by
  decide

/-- A launched machine about to store a byte, in canonical memory. -/
theorem witness_StepKeepsMemoryCanonical :
    MemoryInv (running [0x40010041]) ∧ ∃ t, step (running [0x40010041]) = .next t ∧ t.mem = [(0x0100, 0x41)] :=
  ⟨⟨by decide, by decide⟩, _, rfl, by decide⟩

/-- A window about to record its last interval. -/
theorem witness_StepKeepsRegistersInRange :
    let s : State := { capturing 41 4298 4352 with agenda := [.word 0x91000000] }
    RangeInv s ∧ ∃ t, step s = .next t :=
  ⟨⟨illustrative_legal, by decide, by decide, by decide, by decide, by decide, by decide, by decide, by decide,
    by decide⟩, _, rfl⟩

/-- A transaction with its second byte to send: the invariant holds and the step runs. -/
theorem witness_StepKeepsTheTransactionConsistent :
    let s : State := { onBus .dataSending 0x28 true 0x0101 1 with agenda := [.word 0x92000000] }
    BusInv s ∧ ∃ t, step s = .next t :=
  ⟨⟨illustrative_legal, by decide, by decide, by decide, by decide⟩, _, rfl⟩

/-- The same in the states Starting, AddressSent and Idle. -/
theorem witness_NoStepFaults :
    BusInv (onBus .starting 0x08 true 0x0100 2) ∧ BusInv (onBus .addressSent 0x18 false 0x0100 2) ∧ BusInv launch :=
  ⟨⟨illustrative_legal, by decide, by decide, by decide, by decide, by decide⟩,
    ⟨illustrative_legal, by decide, by decide, by decide, by decide, by decide⟩, illustrative_legal, rfl, rfl⟩

theorem witness_StepKeepsInterruptDiscipline :
    InterruptInv (running [0x30000000]) ∧ ∃ t, step (running [0x30000000]) = .next t ∧ t.irq.csActive = true :=
  ⟨⟨by decide, by decide, by decide⟩, _, rfl, rfl⟩

theorem witness_StepKeepsMarksAndPhaseTogether :
    MarkInv (running [0x31000000]) ∧ ∃ t, step (running [0x31000000]) = .next t ∧ t.fault = 8 :=
  ⟨⟨by decide, by decide, by decide⟩, _, rfl, by decide⟩

end Sys2Proof.Tests
end

section
/-! PROOFS. The scope (00): which actions have a step, what a step runs, and the invariants right after reset
(00 R8, R14, 30 R91, R92, 60 R204 to R213, 70 R240). -/

namespace Sys2Proof.Machine

/-! ## Which actions have a step -/

/-- A thread command always answers a next state: its model faults are marks in that state (60 R201). -/
theorem exec_command_next {i : Instr} (h : i.isCommand = true) (s : State) : ∃ t, exec i s = .next t := by
  cases i
  case evTcnt | evEdge | evBus | intTick | intCap | intBus => cases h
  all_goals exact ⟨_, rfl⟩

/-- Interrupt entry has no step exactly when it is not enabled, whatever handler that never refuses it runs. -/
theorem State.enter_isRefused_iff (s : State) (q : Source) (handler : State → StepOutcome)
    (hh : ∀ u x, handler u ≠ .refused x) :
    (∃ r, s.enter q handler = .refused r) ↔ s.entryEnabled q = false := by
  simp [State.enter_refused_iff s _ q handler hh]

/-- EV_BUS has no step exactly when no operation is in flight (60 R213). -/
theorem execEvBus_isRefused_iff (st : Byte) (s : State) :
    (∃ r, execEvBus st s = .refused r) ↔ s.bus.bhw = false := by
  cases h : s.bus.bhw <;> simp [execEvBus, h]

/-- An event or entry has no step exactly when its agent's step is not enabled. -/
theorem exec_runWord_isRefused_iff {i : Instr} (h : i.isRunWord = true) (s : State) :
    (∃ r, exec i s = .refused r) ↔ eventEnabled i s = false := by
  cases i
  case evTcnt | evEdge => exact ⟨fun ⟨_, hr⟩ => (nomatch hr), fun he => (nomatch he)⟩
  case evBus st => exact execEvBus_isRefused_iff st s
  case intTick => exact s.enter_isRefused_iff .tick tickHandler fun _ _ hr => nomatch hr
  case intCap => exact s.enter_isRefused_iff .capture captureHandler fun _ _ hr => nomatch hr
  case intBus => exact s.enter_isRefused_iff .bus busHandler busHandler_ne_refused
  all_goals cases h

/-- Phase RUN always has a step: the command at pc, or the refusal that marks REFUSED (30 R91). -/
theorem fetchStep_next (s : State) : ∃ t, fetchStep s = .next t := by
  unfold fetchStep
  split
  · next i hf => exact exec_command_next (fetchAt_isCommand hf) s
  · exact ⟨_, rfl⟩

/-- The thread has no step exactly in the phases without one (10 R22). -/
theorem threadStep_isRefused_iff (s : State) :
    (∃ r, threadStep s = .refused r) ↔ s.tph.hasStep = false := by
  cases hp : s.tph
  case run =>
    obtain ⟨t, ht⟩ := fetchStep_next s
    simp [threadStep, hp, ht, Phase.hasStep]
  all_goals simp [threadStep, hp, Phase.hasStep]

/-- A run word's action runs the event or entry it names. -/
theorem takeAction_word_of_runWord {w : Word} {i : Instr} (hw : runWord w = some i) (s : State) :
    takeAction (.word w) s = exec i s := by
  simp [takeAction, hw]

/-- A run word's action is enabled when the event or entry it names is. -/
theorem actionEnabled_word_of_runWord {w : Word} {i : Instr} (hw : runWord w = some i) (s : State) :
    actionEnabled (.word w) s = eventEnabled i s := by
  simp [actionEnabled, hw]

/-- An action has no step exactly when its agent's step is not enabled. -/
theorem takeAction_isRefused_iff (a : Action) (s : State) :
    (∃ r, takeAction a s = .refused r) ↔ actionEnabled a s = false := by
  cases a with
  | thread => exact threadStep_isRefused_iff s
  | word w =>
    cases hw : runWord w with
    | none => simp [takeAction, actionEnabled, hw]
    | some i =>
      rw [takeAction_word_of_runWord hw, actionEnabled_word_of_runWord hw]
      exact exec_runWord_isRefused_iff (runWord_isRunWord hw) s

/-! ## What a launched machine's step is -/

/-- The TIMER always has its step (60 R211). -/
theorem timerAction_enabled (s : State) : actionEnabled timerAction s = true :=
  actionEnabled_word_of_runWord (i := .evTcnt) (by decide) s

/-- The free choice is an enabled action, whatever the free constant. -/
theorem freeChoice_enabled (s : State) : actionEnabled (freeChoice s) s = true := by
  unfold freeChoice
  split
  · assumption
  · exact timerAction_enabled s

/-- A launched machine takes the action at the head of the written-down run (30 R92). -/
theorem step_of_agenda_cons {s : State} {a : Action} {rest : List Action} (hb : s.boot = .launched)
    (ha : s.agenda = a :: rest) : step s = takeAction a { s with agenda := rest } := by
  simp [step, hb, agentStep, ha]

/-- A launched machine with no run written down takes a free choice (00 R14). -/
theorem step_of_agenda_nil {s : State} (hb : s.boot = .launched) (ha : s.agenda = []) :
    step s = takeAction (freeChoice s) { s with draws := s.draws + 1 } := by
  simp [step, hb, agentStep, ha]

/-- In phase RUN the thread runs the fetched command. -/
theorem takeAction_thread_of_fetch {s : State} {i : Instr} (hp : s.tph = .run) (hf : s.fetch = .ok i) :
    takeAction .thread s = exec i s := by
  simp [takeAction, threadStep, hp, fetchStep, hf]

/-- A run word names the event or entry it decodes to. -/
theorem runWord_of_decodeWords {w : Word} {i : Instr} (hd : decodeWords [w] = .ok i) (hi : i.isRunWord = true) :
    runWord w = some i := by
  have hd' : decodeWord w none = .ok i := hd
  simp [runWord, hd', hi]

/-! ## Right after reset -/

/-- The parameters are legal, whatever the implementation chose (00 R8). -/
theorem config_params_legal : Config.params.Legal := by
  have hp : 2 ≤ Config.period ∧ Config.period ≤ 65535 :=
    (Laws.period_choice_iff Config.period).1 ⟨Config.periodChoice, rfl⟩
  have hg : Config.guardChoice % Config.period < Config.period := Nat.mod_lt _ (by omega)
  have hm := Config.memSizeChoice.isLt
  simp only [Params.Legal, Config.params]
  omega

/-- Data memory is canonical and within MEM_SIZE right after reset (20 R60). -/
theorem reset_memoryInv : MemoryInv State.reset := ⟨reset_mem_wf, fun _ h => absurd h List.not_mem_nil⟩

/-- The registers are in range right after reset: each counter, timer register and interval is 0. -/
theorem reset_rangeInv : RangeInv State.reset := by
  have htick : 0 < 2 ^ Config.params.tickBits := by positivity
  have hec : 0 < 2 ^ Config.params.ecBits := by positivity
  have hperiod : 0 < Config.params.period := by
    have := config_params_legal.1
    omega
  refine ⟨config_params_legal, htick, htick, htick, hec, hperiod, hperiod, hperiod, hperiod, fun i => ?_⟩
  have hiv : State.reset.win.intervals[i] = 0 := Vector.getElem_replicate i.isLt
  rw [hiv]
  exact Nat.zero_le _

/-- The bus is idle right after reset, with nothing in flight and nothing pending. -/
theorem reset_busInv : BusInv State.reset := ⟨config_params_legal, rfl, rfl⟩

/-- Interrupts are masked right after reset, outside any critical section and before boot. -/
theorem reset_interruptInv : InterruptInv State.reset := by
  simp [InterruptInv, State.reset, State.powerOn]

/-- No mark is set right after reset and the thread is in RUN. -/
theorem reset_markInv : MarkInv State.reset := by
  simp [MarkInv, State.reset, State.powerOn]

end Sys2Proof.Machine

/-! ## The obligations -/

section
open Sys2Proof Sys2Proof.Machine

/-- Settles O6: an action is refused exactly when its agent's step is not enabled. -/
theorem exactlyTheEnabledActionsHaveAStep : Obligations.ExactlyTheEnabledActionsHaveAStep := by
  intro a s
  have hiff := takeAction_isRefused_iff a s
  exact ⟨fun he r hr => absurd (hiff.1 ⟨r, hr⟩) (by simp [he]), hiff.2⟩

/-- Settles O7: the action taken is the free choice, which falls back on the TIMER. -/
theorem freeChoiceTakesAnEnabledAction : Obligations.FreeChoiceTakesAnEnabledAction :=
  fun s hb ha => ⟨freeChoice s, freeChoice_enabled s, step_of_agenda_nil hb ha⟩

/-- Settles O5: the head of the run is taken off, then its command or its event or entry is run. -/
theorem stepRunsTheDecodedInstruction : Obligations.StepRunsTheDecodedInstruction := by
  constructor
  · intro s i rest hb ha hp hf
    rw [step_of_agenda_cons hb ha]
    exact takeAction_thread_of_fetch hp hf
  · intro s w i rest hb ha hd hi
    rw [step_of_agenda_cons hb ha]
    exact takeAction_word_of_runWord (runWord_of_decodeWords hd hi) _

/-- Settles O60: each invariant at the state right after reset. -/
theorem resetMeetsTheInvariants : Obligations.ResetMeetsTheInvariants :=
  ⟨reset_memoryInv, reset_rangeInv, reset_busInv, reset_interruptInv, reset_markInv⟩

end
end

section
/-! PROOFS. The state (10, 20, 60, 70): what every step keeps of the registers, the marks, the phases and the
arguments. All of it follows from one inversion of `exec`, the relation `Effect`. -/

namespace Sys2Proof.Machine

/-! ## What an instruction can do, once -/

/-- The state after a payload byte went out (41 R136, R137). -/
def byteSent (s : State) : State :=
  { s with
    bus := { s.bus.hwWrite (s.mem.read s.bus.bptr.toNat) with
      bptr := s.nextPtr, brem := s.bus.brem - 1, bst := .dataSending }
    draws := s.draws + 1 }

/-- Sending a byte, when it answers a next state, answers `byteSent`. -/
theorem sendByte_next {s t : State} (h : sendByte s = .next t) : t = byteSent s := by
  rcases sendByte_cases s with ⟨-, h'⟩ | ⟨-, h'⟩ <;> rw [h'] at h
  · injection h with h; exact h.symm
  · cases h

/-- The effects of the instructions, one constructor for each way an instruction completes: a model fault, or the
effect its rule gives under the checks it passed. What a full DECODE computes stands behind equations, so that no proof
about the other fields evaluates the window. -/
inductive Effect (s : State) : Instr → State → Prop where
  | raised {i : Instr} (f : ModelFault) (hi : writesRegister i .fault = true) : Effect s i (s.raise f)
  | endRun : Effect s .endRun (s.setPhase .halted)
  | arm (hc : s.irq.ieCap = false) : Effect s .arm ((armWindow s).advance 1)
  | disarm : Effect s .disarm ({ s with irq := { s.irq with ieCap := false } }.advance 1)
  | decodeShort (hc : s.irq.ieCap = false) (he : s.win.edgeCount < decodeMinEdges) :
      Effect s .decode ((Machine.decodeShort s).advance 1)
  | decodeFull {verdict : Validity} {hum temp : Half} (hc : s.irq.ieCap = false)
      (he : decodeMinEdges ≤ s.win.edgeCount) (hv : verdict = s.win.verdict) (hh : hum = s.win.humidity)
      (ht : temp = s.win.temperature) :
      Effect s .decode ({ s with res := { s.res with rval := verdict, rhum := hum, rtemp := temp } }.advance 1)
  | submit {addr : BitVec 7} {len base : Half} (hb : s.bus.bst.busy = false) (hl : len ≠ 0)
      (hr : base.toNat + len.toNat ≤ s.params.memSize) :
      Effect s (.submit addr len base) ((armTransaction s addr len base).advance 2)
  | awaitDone (hb : s.bus.bst = .stopped) :
      Effect s .await ({ s with res := { s.res with rsucc := true, rerr := 0 } }.finishWait)
  | awaitBlocks (hb : s.bus.bst ≠ .stopped) : Effect s .await (s.setPhase (.preSleep .awaitCheck))
  | waitsZero : Effect s (.waits 0) (s.advance 1)
  | waits {n : BitVec 24} (hn : n ≠ 0) :
      Effect s (.waits n) ({ s with clk := { s.clk with wtarget := s.coarseTarget n } }.setPhase .waitsCheck)
  | waitus {n : BitVec 24} (hn : s.fineCounts n + s.params.guardBand ≤ s.params.period) :
      Effect s (.waitus n) ({ s with clk := { s.clk with wlo := s.fineLow n } }.setPhase .waitusPoll)
  | now : Effect s .now ({ s with res := { s.res with rnow := s.clk.ticks } }.advance 1)
  | csenter (hc : s.irq.csActive = false) :
      Effect s .csenter
        ({ s with irq := { s.irq with csSaved := s.irq.gie, gie := false, csActive := true } }.advance 1)
  | csexit (hc : s.irq.csActive = true) :
      Effect s .csexit ({ s with irq := { s.irq with gie := s.irq.csSaved, csActive := false } }.advance 1)
  | sleep : Effect s .sleep ((s.advance 1).setPhase (.sleeping .run))
  | stb {a : Half} {v : Byte} (ha : a.toNat < s.params.memSize) (hb : s.borrowed a.toNat = false) :
      Effect s (.stb a v) ((s.memWrite a.toNat v).advance 1)
  | timerWraps (ht : s.clk.tcnt.toNat = s.params.period - 1) :
      Effect s .evTcnt { s with clk := { s.clk with tcnt := 0 }, irq := { s.irq with ifTick := true } }
  | timerCounts (ht : s.clk.tcnt.toNat ≠ s.params.period - 1) :
      Effect s .evTcnt { s with clk := { s.clk with tcnt := s.clk.tcnt + 1 } }
  | edge : Effect s .evEdge { s with clk := { s.clk with icr := s.clk.tcnt }, irq := { s.irq with ifCap := true } }
  | busDone {st : Byte} (hb : s.bus.bhw = true) : Effect s (.evBus st) (completeBus st s)
  | tickEntry (he : s.entryEnabled .tick = true) :
      Effect s .intTick
        { s with
          clk := { s.clk with ticks := (s.clk.ticks + 1) % 2 ^ s.params.tickBits }
          irq := s.irq.clear .tick
          tph := s.tph.woken }
  | captureEntry (he : s.entryEnabled .capture = true) :
      Effect s .intCap
        { s with win := recordEdge s.params s.clk.icr s.win, irq := s.irq.clear .capture, tph := s.tph.woken }
  | addressEntry (he : s.entryEnabled .bus = true) (hb : s.bus.bst = .starting) :
      Effect s .intBus (sendAddress (s.clearPending .bus)).wake
  | errorEntry (he : s.entryEnabled .bus = true) (hb : s.bus.bst.busy = true) :
      Effect s .intBus (busError (s.clearPending .bus)).wake
  | byteEntry (he : s.entryEnabled .bus = true)
      (hb : s.bus.bst = .addressSent ∨ s.bus.bst = .dataSending ∧ s.bus.brem ≠ 0)
      (hp : s.bus.bptr.toNat < s.params.memSize) : Effect s .intBus (byteSent (s.clearPending .bus)).wake
  | stopEntry (he : s.entryEnabled .bus = true) (hb : s.bus.bst = .dataSending) (hr : s.bus.brem = 0) :
      Effect s .intBus (sendStop (s.clearPending .bus)).wake
  | quietEntry (he : s.entryEnabled .bus = true) (hb : s.bus.bst.busy = false) :
      Effect s .intBus (s.clearPending .bus).wake

/-- A command that completes with a model fault where a check fails, and with u where it passes. -/
theorem Effect.of_check {s t u : State} {i : Instr} {c : Prop} [Decidable c] {f : ModelFault}
    (hi : writesRegister i .fault = true) (hpass : ¬ c → Effect s i u)
    (h : t = if c then s.raise f else u) : Effect s i t := by
  subst h
  split
  · exact .raised f hi
  · exact hpass ‹_›

/-- The effect of the bus interrupt (41 R130, R134 to R138). -/
theorem Effect.of_execIntBus {s t : State} (h : execIntBus s = .next t) : Effect s .intBus t := by
  rw [execIntBus, State.enter_next_iff] at h
  obtain ⟨he, u, hu, rfl⟩ := h
  rcases busHandler_next _ _ hu with ⟨hb, -, rfl⟩ | ⟨hb, rfl⟩ | ⟨hb, hp, hu⟩ | ⟨hb, hr, -, rfl⟩ | ⟨hb, rfl⟩
  · exact .addressEntry he hb
  · exact .errorEntry he hb
  · rw [sendByte_next hu]; exact .byteEntry he hb hp
  · exact .stopEntry he hb hr
  · exact .quietEntry he hb

/-- The effect of a command, an event or an entry that completes. -/
theorem exec_effect {i : Instr} {s t : State} (h : exec i s = .next t) : Effect s i t := by
  cases i
  case endRun => injection h with h; subst h; exact .endRun
  case arm =>
    injection h with h
    exact .of_check rfl (fun hc => .arm (by simpa using hc)) h.symm
  case disarm => injection h with h; subst h; exact .disarm
  case decode =>
    injection h with h
    refine .of_check rfl (fun hc => ?_) h.symm
    have hc : s.irq.ieCap = false := by simpa using hc
    split
    · exact .decodeShort hc ‹_›
    · exact .decodeFull hc (Nat.le_of_not_lt ‹_›) rfl rfl rfl
  case submit =>
    injection h with h
    exact .of_check rfl (fun hb => .of_check rfl (fun hl => .of_check rfl
      (fun hr => .submit (by simpa using hb) hl (Nat.le_of_not_lt hr)) rfl) rfl) h.symm
  case await =>
    injection h with h
    subst h
    unfold awaitCheck
    split
    · exact .awaitDone ‹_›
    · exact .awaitBlocks ‹_›
  case waits n =>
    injection h with h
    subst h
    split
    · next hn => subst hn; exact .waitsZero
    · exact .waits ‹_›
  case waitus => injection h with h; exact .of_check rfl (fun hn => .waitus (Nat.le_of_not_lt hn)) h.symm
  case now => injection h with h; subst h; exact .now
  case csenter => injection h with h; exact .of_check rfl (fun hc => .csenter (by simpa using hc)) h.symm
  case csexit =>
    injection h with h
    subst h
    split
    · exact .csexit ‹_›
    · exact .raised _ rfl
  case sleep => injection h with h; subst h; exact .sleep
  case stb =>
    injection h with h
    exact .of_check rfl (fun ha => .of_check rfl
      (fun hb => .stb (Nat.lt_of_not_le ha) (by simpa using hb)) rfl) h.symm
  case evTcnt =>
    injection h with h
    subst h
    split
    · exact .timerWraps ‹_›
    · exact .timerCounts ‹_›
  case evEdge => injection h with h; subst h; exact .edge
  case evBus st => obtain ⟨hb, rfl⟩ := (execEvBus_next_iff st s t).1 h; exact .busDone hb
  case intTick => obtain ⟨he, rfl⟩ := (execIntTick_next_iff s t).1 h; exact .tickEntry he
  case intCap => obtain ⟨he, rfl⟩ := (execIntCap_next_iff s t).1 h; exact .captureEntry he
  case intBus => exact .of_execIntBus h

/-! ## The ranges (10 R26, R37 to R39, R44, 40 R108) -/

/-- The window's registers are in range: EC below 2 to its width, LET below P, every interval at most P. -/
structure WindowInRange (p : Params) (w : Window) : Prop where
  edgeCount : w.edgeCount < 2 ^ p.ecBits
  lastEdge : w.lastEdge.toNat < p.period
  intervals : ∀ i : Fin 40, w.intervals[i].toNat ≤ p.period

/-- The clock's registers are in range: TICKS and WTARGET below 2 to their width, TCNT, ICR and WLO below P. -/
structure ClockInRange (p : Params) (c : Clock) : Prop where
  ticks : c.ticks < 2 ^ p.tickBits
  tcnt : c.tcnt.toNat < p.period
  icr : c.icr.toNat < p.period
  wtarget : c.wtarget < 2 ^ p.tickBits
  wlo : c.wlo.toNat < p.period

/-- The range invariant, register group by register group. -/
theorem rangeInv_iff (s : State) : RangeInv s ↔
    s.params.Legal ∧ ClockInRange s.params s.clk ∧ s.res.rnow < 2 ^ s.params.tickBits ∧
      WindowInRange s.params s.win :=
  ⟨fun ⟨hp, htk, hwt, hrn, hec, htc, hic, hwl, hle, hiv⟩ =>
      ⟨hp, ⟨htk, htc, hic, hwt, hwl⟩, hrn, ⟨hec, hle, hiv⟩⟩,
    fun ⟨hp, ⟨htk, htc, hic, hwt, hwl⟩, hrn, ⟨hec, hle, hiv⟩⟩ =>
      ⟨hp, htk, hwt, hrn, hec, htc, hic, hwl, hle, hiv⟩⟩

/-- An interval is at most P (40 R108). -/
theorem interval_le {p : Nat} {ts last : Half} (hp : p ≤ 65535) (hts : ts.toNat < p) :
    (interval p ts last).toNat ≤ p := by
  unfold interval
  split
  · next h => rw [BitVec.toNat_sub_of_le (BitVec.le_of_lt h)]; omega
  · rw [BitVec.toNat_ofNat, Nat.mod_eq_of_lt (by omega)]; exact Nat.sub_le _ _

/-- ARM leaves a window in range. -/
theorem freshWindow_inRange {p : Params} (hp : p.Legal) : WindowInRange p (freshWindow p) where
  edgeCount := Nat.two_pow_pos _
  lastEdge := Nat.lt_of_lt_of_le Nat.two_pos hp.1
  intervals i := by
    have hi : (freshWindow p).intervals[i] = 0 := Vector.getElem_replicate i.isLt
    rw [hi]
    exact Nat.zero_le _

/-- An edge with a timestamp below P keeps the window in range, in each of its three branches. -/
theorem recordEdge_inRange {p : Params} {ts : Half} {w : Window} (hp : p.Legal) (hts : ts.toNat < p.period)
    (hw : WindowInRange p w) : WindowInRange p (recordEdge p ts w) := by
  have hec : nextEdgeCount p w < 2 ^ p.ecBits := Nat.mod_lt _ (Nat.two_pow_pos _)
  unfold recordEdge
  split
  · exact ⟨hec, hts, hw.intervals⟩
  · split
    · exact ⟨hec, hw.lastEdge, hw.intervals⟩
    · refine ⟨hec, hts, fun i => ?_⟩
      simp only [Fin.getElem_fin, Vector.getElem_setIfInBounds]
      split
      · exact interval_le hp.2.1 hts
      · exact hw.intervals i

/-- One count short of the wrap, the timer's next count is below P. -/
theorem tcnt_succ_lt {p : Nat} {c : Half} (hp : p ≤ 65535) (hc : c.toNat < p) (hw : c.toNat ≠ p - 1) :
    (c + 1).toNat < p := by
  have h1 : (1 : Half).toNat = 1 := rfl
  rw [BitVec.toNat_add, h1]
  omega

/-- The low end of the fine window is below P (42 R166). -/
theorem fineLow_lt {s : State} (hp : s.params.Legal) (n : BitVec 24) : (s.fineLow n).toNat < s.params.period := by
  obtain ⟨h2, h65535, -⟩ := hp
  have hm := Nat.mod_lt (s.clk.tcnt.toNat + s.fineCounts n) (show 0 < s.params.period by omega)
  rw [State.fineLow, BitVec.toNat_ofNat, Nat.mod_eq_of_lt (by omega)]
  exact hm

/-- Every instruction keeps the ranges: nine effects write a ranged register, the others none. -/
theorem Effect.rangeInv {i : Instr} {s t : State} (h : Effect s i t) (hs : RangeInv s) : RangeInv t := by
  obtain ⟨hp, hclk, hnow, hwin⟩ := (rangeInv_iff s).1 hs
  have hperiod : 0 < s.params.period := Nat.lt_of_lt_of_le Nat.two_pos hp.1
  cases h
  case arm => exact (rangeInv_iff _).2 ⟨hp, hclk, hnow, freshWindow_inRange hp⟩
  case waits => exact (rangeInv_iff _).2 ⟨hp, { hclk with wtarget := Nat.mod_lt _ (Nat.two_pow_pos _) }, hnow, hwin⟩
  case waitus n _ => exact (rangeInv_iff _).2 ⟨hp, { hclk with wlo := fineLow_lt hp n }, hnow, hwin⟩
  case now => exact (rangeInv_iff _).2 ⟨hp, hclk, hclk.ticks, hwin⟩
  case timerWraps => exact (rangeInv_iff _).2 ⟨hp, { hclk with tcnt := hperiod }, hnow, hwin⟩
  case timerCounts ht =>
    exact (rangeInv_iff _).2 ⟨hp, { hclk with tcnt := tcnt_succ_lt hp.2.1 hclk.tcnt ht }, hnow, hwin⟩
  case edge => exact (rangeInv_iff _).2 ⟨hp, { hclk with icr := hclk.tcnt }, hnow, hwin⟩
  case tickEntry => exact (rangeInv_iff _).2 ⟨hp, { hclk with ticks := Nat.mod_lt _ (Nat.two_pow_pos _) }, hnow, hwin⟩
  case captureEntry => exact (rangeInv_iff _).2 ⟨hp, hclk, hnow, recordEdge_inRange hp hclk.icr hwin⟩
  all_goals exact hs

/-- Boot keeps the ranges: it sets TCNT to 0. -/
theorem rangeInv_bootStep {s : State} (hs : RangeInv s) : RangeInv s.bootStep := by
  obtain ⟨hp, hclk, hnow, hwin⟩ := (rangeInv_iff s).1 hs
  unfold State.bootStep
  split
  · exact (rangeInv_iff _).2 ⟨hp, { hclk with tcnt := Nat.lt_of_lt_of_le Nat.two_pos hp.1 }, hnow, hwin⟩
  all_goals exact hs

/-! ## The interrupt discipline (10 R40 to R43, 70 R242) -/

/-- Every instruction of a launched machine keeps the discipline: CSENTER and CSEXIT exchange its two sides, and no
other effect writes GIE, CS_ACTIVE, CS_SAVED, IE_TICK or IE_BUS. -/
theorem Effect.interruptInv {i : Instr} {s t : State} (h : Effect s i t) (hb : s.boot = .launched)
    (hs : InterruptInv s) : InterruptInv t := by
  obtain ⟨hin, hout, hsrc⟩ := hs
  cases h
  case csenter hc => exact ⟨fun _ => ⟨hb, rfl, (hout hc).2 hb⟩, (nomatch ·), hsrc⟩
  case csexit hc =>
    obtain ⟨-, -, hsaved⟩ := hin hc
    exact ⟨(nomatch ·), fun _ => ⟨fun _ => hb, fun _ => hsaved⟩, hsrc⟩
  all_goals exact ⟨hin, hout, hsrc⟩

/-- Boot keeps the discipline: the sources are enabled before GIE, and GIE is set by the launch. -/
theorem interruptInv_bootStep {s : State} (hs : InterruptInv s) (hb : s.boot ≠ .launched) :
    InterruptInv s.bootStep := by
  obtain ⟨hin, hout, hsrc⟩ := hs
  have hcs : s.irq.csActive = false := by
    by_contra hc
    exact hb (hin (by simpa using hc)).1
  have hgie : s.irq.gie = false := by simpa [hb] using hout hcs
  unfold State.bootStep
  split
  · simp [InterruptInv, hcs, hgie]
  · simp [InterruptInv, hcs, hgie]
  · next hst => simpa [InterruptInv, hcs] using hsrc (.inl hst)
  · next hl => exact absurd hl hb

/-! ## Marks and phases (10 R22, R45, 60 R201, R202, R210) -/

/-- Only commands raise model faults: no event and no entry writes FAULT. -/
theorem isCommand_of_writesRegister_fault {i : Instr} (h : writesRegister i .fault = true) : i.isCommand = true := by
  cases i
  case evTcnt | evEdge | evBus | intTick | intCap | intBus => cases h
  all_goals rfl

/-- A run word is no command (30 R81). -/
theorem isRunWord_eq_not_isCommand (i : Instr) : i.isRunWord = !i.isCommand := rfl

/-- A command raises a model fault, or it keeps both marks and does not make the thread FAULTED. -/
theorem Effect.command_marks {i : Instr} {s t : State} (h : Effect s i t) (hi : i.isCommand = true) :
    (∃ f, t = s.raise f) ∨
      (t.fault = s.fault ∧ t.refused = s.refused ∧ (t.tph = s.tph ∨ t.tph ≠ .faulted)) := by
  cases h
  case raised f _ => exact .inl ⟨f, rfl⟩
  case endRun | awaitDone | awaitBlocks | waits | waitus | sleep => exact .inr ⟨rfl, rfl, .inr nofun⟩
  case timerWraps | timerCounts | edge | busDone | tickEntry | captureEntry | addressEntry | errorEntry | byteEntry
    | stopEntry | quietEntry => cases hi
  all_goals exact .inr ⟨rfl, rfl, .inl rfl⟩

/-- An event or entry word keeps both marks; an event keeps the phase too, and an entry, which was then enabled, may
wake a sleeper. -/
theorem Effect.runWord_marks {i : Instr} {s t : State} (h : Effect s i t) (hi : i.isRunWord = true) :
    t.fault = s.fault ∧ t.refused = s.refused ∧
      (t.tph = s.tph ∨ ∃ q : Source, i = q.entry ∧ s.entryEnabled q = true ∧ t.tph = s.tph.woken) := by
  cases h
  case raised f hf => simp [isRunWord_eq_not_isCommand, isCommand_of_writesRegister_fault hf] at hi
  case timerWraps | timerCounts | edge | busDone => exact ⟨rfl, rfl, .inl rfl⟩
  case tickEntry he => exact ⟨rfl, rfl, .inr ⟨.tick, rfl, he, rfl⟩⟩
  case captureEntry he => exact ⟨rfl, rfl, .inr ⟨.capture, rfl, he, rfl⟩⟩
  case addressEntry he _ | errorEntry he _ | byteEntry he _ _ | stopEntry he _ _ | quietEntry he _ =>
    exact ⟨rfl, rfl, .inr ⟨.bus, rfl, he, rfl⟩⟩
  all_goals cases hi

/-- The marks after any instruction: REFUSED stays, and FAULT stays but for a model fault. -/
theorem Effect.marks {i : Instr} {s t : State} (h : Effect s i t) :
    (∃ f, t = s.raise f) ∨ (t.fault = s.fault ∧ t.refused = s.refused) := by
  cases hi : i.isCommand
  · obtain ⟨hf, hr, -⟩ := h.runWord_marks (by simp [isRunWord_eq_not_isCommand, hi])
    exact .inr ⟨hf, hr⟩
  · exact (h.command_marks hi).imp_right fun ⟨hf, hr, _⟩ => ⟨hf, hr⟩

/-- Waking makes no thread FAULTED and frees none that is. -/
theorem woken_eq_faulted_iff (p : Phase) : p.woken = .faulted ↔ p = .faulted := by
  cases p
  case sleeping r => cases r <;> simp [Phase.woken, Resume.toPhase]
  all_goals simp [Phase.woken]

/-- The codes of the model faults are 1 to 9 (60 R201). -/
theorem ModelFault.code_range (f : ModelFault) : f.code ≠ 0 ∧ f.code.toNat ≤ 9 := by
  cases f <;> decide

/-- The mark invariant looks at the two marks and at whether the phase is FAULTED, and at nothing else. -/
theorem markInv_congr {s t : State} (hs : MarkInv s) (hf : t.fault = s.fault) (hr : t.refused = s.refused)
    (hp : t.tph = .faulted ↔ s.tph = .faulted) : MarkInv t := by
  unfold MarkInv
  rw [hp, hf, hr]
  exact hs

/-- A move from a phase other than FAULTED to another such phase keeps the invariant, if it keeps the marks. -/
theorem markInv_of_ne_faulted {s t : State} (hs : MarkInv s) (hp : s.tph ≠ .faulted) (hf : t.fault = s.fault)
    (hr : t.refused = s.refused) (ht : t.tph ≠ .faulted) : MarkInv t :=
  markInv_congr hs hf hr (iff_of_false ht hp)

/-- A thread that is not FAULTED has no mark set. -/
theorem MarkInv.unmarked {s : State} (hs : MarkInv s) (hp : s.tph ≠ .faulted) : s.fault = 0 ∧ s.refused = false := by
  simpa using mt hs.1.2 hp

/-- A model fault of a thread that is not FAULTED sets the one mark. -/
theorem markInv_raise {s : State} (hs : MarkInv s) (hp : s.tph ≠ .faulted) (f : ModelFault) : MarkInv (s.raise f) := by
  obtain ⟨hf, hr⟩ := hs.unmarked hp
  obtain ⟨h0, h9⟩ := f.code_range
  simpa [MarkInv, hf, hr, h9] using h0

/-- A refusal of a thread that is not FAULTED sets the other. -/
theorem markInv_refuse {s : State} (hs : MarkInv s) (hp : s.tph ≠ .faulted) : MarkInv s.refuse := by
  obtain ⟨hf, -⟩ := hs.unmarked hp
  simp [MarkInv, hf]

/-- A command of a thread that is not FAULTED keeps marks and phase together. -/
theorem Effect.command_markInv {i : Instr} {s t : State} (h : Effect s i t) (hi : i.isCommand = true)
    (hp : s.tph ≠ .faulted) (hs : MarkInv s) : MarkInv t := by
  rcases h.command_marks hi with ⟨f, rfl⟩ | ⟨hf, hr, ht⟩
  · exact markInv_raise hs hp f
  · exact markInv_of_ne_faulted hs hp hf hr (ht.elim (fun e => e ▸ hp) id)

/-- An event or entry keeps marks and phase together: it sets no mark and stops no thread. -/
theorem Effect.runWord_markInv {i : Instr} {s t : State} (h : Effect s i t) (hi : i.isRunWord = true)
    (hs : MarkInv s) : MarkInv t := by
  obtain ⟨hf, hr, ht | ⟨-, -, -, ht⟩⟩ := h.runWord_marks hi
  · exact markInv_congr hs hf hr (by rw [ht])
  · exact markInv_congr hs hf hr (by rw [ht]; exact woken_eq_faulted_iff _)

/-- Boot keeps the phase and the marks. -/
theorem bootStep_marks (s : State) :
    s.bootStep.tph = s.tph ∧ s.bootStep.fault = s.fault ∧ s.bootStep.refused = s.refused := by
  unfold State.bootStep
  split <;> exact ⟨rfl, rfl, rfl⟩

/-- A step is the thread's own, from a phase that has one, or it keeps the phase, or it is an enabled entry's, which
wakes a sleeper (10 R22, 60 R210). -/
theorem step_tph {s t : State} (h : step s = .next t) :
    s.tph.hasStep = true ∨ t.tph = s.tph ∨
      (t.tph = s.tph.woken ∧ s.boot = .launched ∧
        ∃ (q : Source) (w : Word), s.nextAction = .word w ∧ runWord w = some q.entry ∧ s.entryEnabled q = true) := by
  rcases step_next s t h with ⟨-, rfl⟩ | ⟨hb, agenda, draws, ⟨i, hi, ho⟩ | ⟨hp, -⟩ | ⟨hp, -⟩ | ⟨hp, -⟩ | ⟨r, hp, -⟩⟩
  · exact .inr (.inl (bootStep_marks s).1)
  · rcases ho with ⟨w, hw, hi'⟩ | ⟨-, hp⟩ | ⟨-, hp⟩
    · obtain ⟨-, -, ht | ⟨q, rfl, he, ht⟩⟩ := (exec_effect hi).runWord_marks (runWord_isRunWord hi')
      · exact .inr (.inl ht)
      · exact .inr (.inr ⟨ht, hb, q, w, hw, hi', he⟩)
    all_goals exact .inl (by rw [hp]; rfl)
  all_goals exact .inl (by rw [hp]; rfl)

/-! ## What a step does to the rest of the state -/

/-- A relation that the run's bookkeeping does not see, and that holds between a state and what boot, an instruction or
a move of the thread alone leaves of it, holds between a state and its next. -/
theorem step_relates (R : State → State → Prop)
    (hrun : ∀ s t agenda draws, R { s with agenda := agenda, draws := draws } t → R s t)
    (hboot : ∀ s, R s s.bootStep) (heffect : ∀ i s t, Effect s i t → R s t) (hrefuse : ∀ s, R s s.refuse)
    (hfinish : ∀ s, R s s.finishWait) (hphase : ∀ s p, R s (s.setPhase p))
    {s t : State} (h : step s = .next t) : R s t := by
  rcases step_next s t h with ⟨-, rfl⟩ | ⟨-, agenda, draws, h⟩
  · exact hboot s
  · refine hrun s t agenda draws ?_
    rcases h with ⟨i, hi, -⟩ | ⟨-, rfl⟩ | ⟨-, rfl⟩ | ⟨-, rfl⟩ | ⟨r, -, rfl⟩
    · exact heffect i _ t (exec_effect hi)
    · exact hrefuse _
    · unfold Machine.waitsCheck
      split
      · exact hfinish _
      · exact hphase _ _
    · unfold Machine.waitusPoll
      split
      · exact hfinish _
      · exact hphase _ _
    · exact hphase _ _

/-- The marks that are set in s are set in t as they were. -/
def MarksKept (s t : State) : Prop := (s.fault ≠ 0 → t.fault = s.fault) ∧ (s.refused = true → t.refused = true)

/-- Marks that did not change are kept. -/
theorem marksKept_of_eq {s t : State} (hf : t.fault = s.fault) (hr : t.refused = s.refused) : MarksKept s t :=
  ⟨fun _ => hf, fun h => hr.trans h⟩

/-- Every instruction keeps the marks that are set: a model fault keeps an earlier code (60 R201). -/
theorem Effect.marksKept {i : Instr} {s t : State} (h : Effect s i t) : MarksKept s t := by
  rcases h.marks with ⟨f, rfl⟩ | ⟨hf, hr⟩
  · exact ⟨fun hf => if_neg hf, id⟩
  · exact marksKept_of_eq hf hr

/-- BTRACE of t is that of s and at most one action more. -/
def TraceGrows (s t : State) : Prop := ∃ l, t.bus.btrace = s.bus.btrace ++ l ∧ l.length ≤ 1

/-- A trace left alone grows by nothing. -/
theorem traceGrows_of_eq {s t : State} (h : t.bus.btrace = s.bus.btrace) : TraceGrows s t :=
  ⟨[], by rw [h, List.append_nil], Nat.zero_le 1⟩

/-- The primitives of 60 R214 append one action, each effect uses at most one of them. -/
theorem Effect.traceGrows {i : Instr} {s t : State} (h : Effect s i t) : TraceGrows s t := by
  cases h
  case submit => exact ⟨[.start], rfl, Nat.le_refl 1⟩
  case addressEntry => exact ⟨[.write (addrByte s.bus.baddr)], rfl, Nat.le_refl 1⟩
  case byteEntry => exact ⟨[.write (s.mem.read s.bus.bptr.toNat)], rfl, Nat.le_refl 1⟩
  case stopEntry => exact ⟨[.stop], rfl, Nat.le_refl 1⟩
  all_goals exact traceGrows_of_eq rfl

/-- Boot leaves the bus alone. -/
theorem bootStep_bus (s : State) : s.bootStep.bus = s.bus := by
  unfold State.bootStep
  split <;> rfl

/-- The arguments of the spec's step relation that the model carries (log entry 3) are as they were. -/
def InputsKept (s t : State) : Prop := t.params = s.params ∧ t.cl = s.cl

/-- No instruction writes the parameters or the command list. -/
theorem Effect.inputsKept {i : Instr} {s t : State} (h : Effect s i t) : InputsKept s t := by
  cases h <;> exact ⟨rfl, rfl⟩

/-- Nor does boot. -/
theorem bootStep_inputsKept (s : State) : InputsKept s s.bootStep := by
  unfold State.bootStep
  split <;> exact ⟨rfl, rfl⟩

/-! ## The registers an instruction writes (10 R46, 60 R215) -/

/-- A model fault writes no register but FAULT. -/
theorem value_raise (s : State) (f : ModelFault) {r : RegName} (hr : r ≠ .fault) : (s.raise f).value r = s.value r := by
  cases r
  case fault => exact absurd rfl hr
  all_goals rfl

/-- An effect leaves a register as it was, or the instruction's rules name the register as written. -/
theorem Effect.value_eq {i : Instr} {s t : State} (h : Effect s i t) {r : RegName}
    (hw : writesRegister i r = false) : t.value r = s.value r := by
  cases h
  case raised f hi => exact value_raise s f fun hr => by simp [hr, hi] at hw
  all_goals cases r
  case captureEntry.thr => exact congrArg BitVec.toNat (recordEdge_threshold _ _ _)
  any_goals rfl
  all_goals cases hw

/-! ## The bus state (10 R31, 41 R130) -/

/-- The states that are not busy are the terminal ones, from which SUBMIT may start. -/
theorem mem_of_not_busy {b : BusState} (h : b.busy = false) : b ∈ ([.idle, .stopped, .error] : List BusState) := by
  cases b
  case starting | addressSent | dataSending => cases h
  all_goals decide

/-- The transitions of the table of 41 R130, which the bus interrupt takes. -/
abbrev busTransitions : List (BusState × BusState) :=
  [(.starting, .addressSent), (.starting, .error), (.addressSent, .dataSending), (.addressSent, .error),
    (.dataSending, .stopped), (.dataSending, .error)]

/-- Error is reached from each of the busy states. -/
theorem error_mem_busTransitions {b : BusState} (h : b.busy = true) : (b, .error) ∈ busTransitions := by
  cases b
  case idle | stopped | error => cases h
  all_goals decide

/-! ## The critical section (43 R181, R182) -/

/-- An entry of any source that is not enabled is no step (60 R204). -/
theorem exec_entry_of_not_enabled {s : State} {q : Source} (h : s.entryEnabled q = false) :
    exec q.entry s = .refused (.entryNotEnabled q) := by
  cases q with
  | tick => exact s.enter_of_not_enabled .tick tickHandler h
  | capture => exact s.enter_of_not_enabled .capture captureHandler h
  | bus => exact s.enter_of_not_enabled .bus busHandler h

/-- CSENTER outside a critical section (43 R181). -/
theorem exec_csenter {s : State} (h : s.irq.csActive = false) :
    exec .csenter s = .next
      ({ s with irq := { s.irq with csSaved := s.irq.gie, gie := false, csActive := true } }.advance 1) := by
  simp [exec, execCsenter, h]

/-- CSEXIT inside a critical section (43 R182). -/
theorem exec_csexit {s : State} (h : s.irq.csActive = true) :
    exec .csexit s = .next ({ s with irq := { s.irq with gie := s.irq.csSaved, csActive := false } }.advance 1) := by
  simp [exec, execCsexit, h]

end Sys2Proof.Machine

/-! ## The obligations -/

section
open Sys2Proof Sys2Proof.Machine

/-- Settles O55: each written register lands in its range, by the rule that computes it. -/
theorem stepKeepsRegistersInRange : Obligations.StepKeepsRegistersInRange := fun s t =>
  step_keeps RangeInv (hrun := fun _ _ _ hs => hs) (hboot := fun _ hs _ => rangeInv_bootStep hs)
    (hexec := fun _ _ _ hs _ hi _ => (exec_effect hi).rangeInv hs) (hrefuse := fun _ hs _ => hs)
    (hfinish := fun _ hs _ => hs) (hphase := fun _ _ hs _ _ => hs) s t

/-- Settles O58: boot, CSENTER and CSEXIT are the only steps that write what the discipline speaks of. -/
theorem stepKeepsInterruptDiscipline : Obligations.StepKeepsInterruptDiscipline := fun s t =>
  step_keeps InterruptInv (hrun := fun _ _ _ hs => hs) (hboot := fun _ hs hb => interruptInv_bootStep hs hb)
    (hexec := fun _ _ _ hs hb hi _ => (exec_effect hi).interruptInv hb hs) (hrefuse := fun _ hs _ => hs)
    (hfinish := fun _ hs _ => hs) (hphase := fun _ _ hs _ _ => hs) s t

/-- Settles O59: a thread that steps is not FAULTED, so it has no mark yet, and events and entries set none. -/
theorem stepKeepsMarksAndPhaseTogether : Obligations.StepKeepsMarksAndPhaseTogether := by
  intro s t
  refine step_keeps MarkInv (hrun := fun _ _ _ hs => hs) ?hboot ?hexec ?hrefuse ?hfinish ?hphase s t
  case hboot =>
    intro s hs _
    obtain ⟨hp, hf, hr⟩ := bootStep_marks s
    exact markInv_congr hs hf hr (by rw [hp])
  case hexec =>
    intro i s t hs _ hi ho
    rcases ho with hw | ⟨hc, hp⟩ | ⟨rfl, hp⟩
    · exact (exec_effect hi).runWord_markInv hw hs
    · exact (exec_effect hi).command_markInv hc (by simp [hp]) hs
    · exact (exec_effect hi).command_markInv rfl (by simp [hp]) hs
  case hrefuse => exact fun s hs hp => markInv_refuse hs (by simp [hp])
  case hfinish =>
    intro s hs hp
    exact markInv_of_ne_faulted hs (by rcases hp with hp | hp <;> simp [hp]) rfl rfl nofun
  case hphase =>
    intro s p hs hp hne
    exact markInv_of_ne_faulted hs (by rcases hp with hp | hp | ⟨r, hp⟩ <;> simp [hp]) rfl rfl hne

/-- Settles O26: SUBMIT starts, and four of the five effects of the bus interrupt move BST, each along a row of the table. -/
theorem busStateFollowsTheTable : Obligations.BusStateFollowsTheTable := by
  intro i s t h
  cases exec_effect h
  case submit hb _ _ => exact .inr (.inl ⟨⟨_, _, _, rfl⟩, mem_of_not_busy hb, rfl⟩)
  case addressEntry _ hb =>
    rw [hb]
    exact .inr (.inr ⟨rfl, show (.starting, .addressSent) ∈ busTransitions by decide⟩)
  case errorEntry _ hb => exact .inr (.inr ⟨rfl, error_mem_busTransitions hb⟩)
  case byteEntry _ hb _ =>
    rcases hb with hb | ⟨hb, -⟩ <;> rw [hb]
    · exact .inr (.inr ⟨rfl, show (.addressSent, .dataSending) ∈ busTransitions by decide⟩)
    · exact .inl rfl
  case stopEntry _ hb _ =>
    rw [hb]
    exact .inr (.inr ⟨rfl, show (.dataSending, .stopped) ∈ busTransitions by decide⟩)
  all_goals exact .inl rfl

/-- Settles O47: effect by effect, register by register. -/
theorem onlyTheNamedRegistersAreWritten : Obligations.OnlyTheNamedRegistersAreWritten :=
  fun _ _ _ _ h hw => (exec_effect h).value_eq hw

/-- Settles O49: a step runs at most one bus-controller primitive. -/
theorem busTraceOnlyGrows : Obligations.BusTraceOnlyGrows := fun _ _ =>
  step_relates TraceGrows (hrun := fun _ _ _ _ h => h)
    (hboot := fun s => traceGrows_of_eq (congrArg Bus.btrace (bootStep_bus s))) (heffect := fun _ _ _ h => h.traceGrows)
    (hrefuse := fun _ => traceGrows_of_eq rfl) (hfinish := fun _ => traceGrows_of_eq rfl)
    (hphase := fun _ _ => traceGrows_of_eq rfl)

/-- Settles O51: the thread has no step in these phases, and of the other agents only an entry moves the phase. -/
theorem phasesAreLeftByTheirOwners : Obligations.PhasesAreLeftByTheirOwners := by
  intro s t h
  rcases step_tph h with hp | ht | ⟨ht, hb, hq⟩
  · have noStep : ∀ p : Phase, p.hasStep = false → s.tph ≠ p := fun p hn he => by simp [he, hn] at hp
    exact ⟨fun e => absurd e (noStep _ rfl), fun e => absurd e (noStep _ rfl), fun r e => absurd e (noStep _ rfl)⟩
  · exact ⟨ht.trans, ht.trans, fun r e => .inl (ht.trans e)⟩
  · exact ⟨fun e => by rw [ht, e]; rfl, fun e => by rw [ht, e]; rfl, fun r e => .inr ⟨by rw [ht, e]; rfl, hb, hq⟩⟩

/-- Settles O52: a model fault keeps an earlier code, a refusal sets REFUSED, and nothing else writes a mark. -/
theorem marksAreSticky : Obligations.MarksAreSticky := fun _ _ =>
  step_relates MarksKept (hrun := fun _ _ _ _ h => h)
    (hboot := fun s => marksKept_of_eq (bootStep_marks s).2.1 (bootStep_marks s).2.2)
    (heffect := fun _ _ _ h => h.marksKept) (hrefuse := fun _ => ⟨fun _ => rfl, fun _ => rfl⟩)
    (hfinish := fun _ => marksKept_of_eq rfl rfl) (hphase := fun _ _ => marksKept_of_eq rfl rfl)

/-- Settles O53: no update of the state writes the two fields. -/
theorem argumentsNeverChange : Obligations.ArgumentsNeverChange := fun _ _ =>
  step_relates InputsKept (hrun := fun _ _ _ _ h => h) (hboot := bootStep_inputsKept)
    (heffect := fun _ _ _ h => h.inputsKept) (hrefuse := fun _ => ⟨rfl, rfl⟩) (hfinish := fun _ => ⟨rfl, rfl⟩)
    (hphase := fun _ _ => ⟨rfl, rfl⟩)

/-- Settles O39: CSENTER clears GIE, so that no entry is enabled, and CSEXIT restores it from CS_SAVED. -/
theorem criticalSectionRoundTrip : Obligations.CriticalSectionRoundTrip := by
  intro s hc
  refine ⟨_, _, exec_csenter hc, fun q => exec_entry_of_not_enabled rfl, exec_csexit rfl, rfl, rfl, rfl, ?_⟩
  refine ⟨⟨fun r hr => ?_, rfl, rfl, rfl, rfl⟩, fun _ => rfl, rfl⟩
  cases r
  case csSaved => exact absurd List.mem_cons_self hr
  case csActive => exact congrArg Bool.toNat hc.symm
  all_goals rfl

end
end

section
/-! PROOFS. Data memory (20): what a step can do to it, the canonical form, the borrowed bytes (R77, 43 R185), and that
no step reads outside it (R63). -/

namespace Sys2Proof.Machine

/-! ## What is written to data memory -/

/-- Data memory of t is that of s, or that of s with one byte set, inside MEM_SIZE and not borrowed in s (43 R185). -/
def StoresAtMostOne (s t : State) : Prop :=
  t.mem = s.mem ∨ ∃ a v, a < s.params.memSize ∧ s.borrowed a = false ∧ t.mem = s.mem.write a v

/-- A STB that passes its checks writes its byte; no other effect writes data memory. -/
theorem Effect.mem_eq_or_stb {i : Instr} {s t : State} (h : Effect s i t) :
    t.mem = s.mem ∨ ∃ a v, i = .stb a v ∧ a.toNat < s.params.memSize ∧ s.borrowed a.toNat = false ∧
      t.mem = s.mem.write a.toNat v := by
  cases h
  case stb a v ha hb => exact .inr ⟨a, v, rfl, ha, hb, rfl⟩
  all_goals exact .inl rfl

/-- An instruction writes at most one byte, which it may write. -/
theorem Effect.storesAtMostOne {i : Instr} {s t : State} (h : Effect s i t) : StoresAtMostOne s t :=
  h.mem_eq_or_stb.imp_right fun ⟨a, v, _, ha, hb, hm⟩ => ⟨a.toNat, v, ha, hb, hm⟩

/-- Boot leaves data memory alone. -/
theorem bootStep_mem (s : State) : s.bootStep.mem = s.mem := by
  unfold State.bootStep
  split <;> rfl

/-- Every step writes at most one byte, which it may write: boot and the thread's own moves write none. -/
theorem step_storesAtMostOne {s t : State} (h : step s = .next t) : StoresAtMostOne s t :=
  step_relates StoresAtMostOne (hrun := fun _ _ _ _ h => h) (hboot := fun s => .inl (bootStep_mem s))
    (heffect := fun _ _ _ h => h.storesAtMostOne) (hrefuse := fun _ => .inl rfl) (hfinish := fun _ => .inl rfl)
    (hphase := fun _ _ => .inl rfl) h

/-- A write inside MEM_SIZE, under the same parameters, keeps data memory canonical and inside MEM_SIZE. -/
theorem StoresAtMostOne.memoryInv {s t : State} (h : StoresAtMostOne s t) (hp : t.params = s.params)
    (hs : MemoryInv s) : MemoryInv t := by
  obtain ⟨hwf, hbelow⟩ := hs
  unfold MemoryInv
  rw [hp]
  rcases h with hm | ⟨a, v, ha, -, hm⟩ <;> rw [hm]
  · exact ⟨hwf, hbelow⟩
  · exact ⟨Memory.write_wf _ _ _ hwf, Memory.write_below _ _ _ _ hbelow ha⟩

/-- A borrowed byte reads as it did: the byte written is not borrowed, so it is another one. -/
theorem StoresAtMostOne.read_of_borrowed {s t : State} (h : StoresAtMostOne s t) {a : Nat}
    (hb : s.borrowed a = true) : t.mem.read a = s.mem.read a := by
  rcases h with hm | ⟨b, v, -, hnb, hm⟩ <;> rw [hm]
  exact Memory.read_write_of_ne _ _ _ _ fun hab => by simp [← hab, hb] at hnb

/-- The bytes borrowed while BST is busy are those of the submitted buffer (43 R185). -/
theorem State.borrowed_of_busy {s : State} {a : Nat} (hb : s.bus.bst.busy = true) (hlo : s.bus.bbase.toNat ≤ a)
    (hhi : a < s.bus.bbase.toNat + s.bus.blen.toNat) : s.borrowed a = true := by
  simp [State.borrowed, hb, hlo, hhi]

/-! ## What is read from data memory by the bus handler (R63) -/

/-- While a payload byte is still to be sent, BPTR lies in the buffer, so in data memory. -/
theorem BusInv.bptr_lt_memSize {s : State} (hs : BusInv s)
    (hb : s.bus.bst = .addressSent ∨ s.bus.bst = .dataSending ∧ s.bus.brem ≠ 0) :
    s.bus.bptr.toNat < s.params.memSize := by
  obtain ⟨-, hs⟩ := hs
  rcases hb with hb | ⟨hb, hr⟩ <;> simp only [hb] at hs
  · obtain ⟨-, hle, hlen, hptr, -⟩ := hs
    have := BitVec.toNat_pos_of_ne_zero hlen
    rw [hptr]
    omega
  · obtain ⟨-, hle, -, hptr⟩ := hs
    have := hptr hr
    have := BitVec.toNat_pos_of_ne_zero hr
    omega

/-- The bus interrupt is the only instruction that can stop with a fault of the model. -/
theorem eq_intBus_of_exec_fault {i : Instr} {s : State} {f : Fault} (h : exec i s = .fault f) : i = .intBus := by
  cases i
  case intBus => rfl
  case evBus st =>
    cases hb : s.bus.bhw <;> simp [exec, execEvBus, hb] at h
  case intTick => exact nomatch ((s.enter_fault_iff f .tick tickHandler).1 h).2
  case intCap => exact nomatch ((s.enter_fault_iff f .capture captureHandler).1 h).2
  all_goals cases h

/-- No instruction stops with a fault from a consistent transaction. -/
theorem BusInv.exec_ne_fault {s : State} (hs : BusInv s) (i : Instr) (f : Fault) : exec i s ≠ .fault f := by
  intro h
  obtain rfl := eq_intBus_of_exec_fault h
  obtain ⟨hb, hge⟩ := execIntBus_fault s f h
  exact Nat.not_lt.2 hge (hs.bptr_lt_memSize hb)

/-- A step that stops with a fault runs an instruction that does, from a state that differs from the step's in the
agenda and the draw counter only. -/
theorem step_fault {s : State} {f : Fault} (h : step s = .fault f) :
    ∃ i agenda draws, exec i { s with agenda := agenda, draws := draws } = .fault f := by
  rcases step_taken s with ⟨-, h'⟩ | ⟨-, agenda, draws, h'⟩
  · rw [h'] at h
    cases h
  · rw [h] at h'
    cases h'
    case runWord i _ _ ho => exact ⟨i, agenda, draws, ho.symm⟩
    case command i _ _ _ ho => exact ⟨i, agenda, draws, ho.symm⟩
    case noWord ho | refusal ho | awaitCheck ho | waitsCheck ho | waitusPoll ho | asleep ho | noStep ho => cases ho

end Sys2Proof.Machine

/-! ## The obligations -/

section
open Sys2Proof Sys2Proof.Machine

/-- Settles O54: the one write a step can make keeps the form and lies below MEM_SIZE, which no step changes. -/
theorem stepKeepsMemoryCanonical : Obligations.StepKeepsMemoryCanonical := fun s t hs h =>
  (step_storesAtMostOne h).memoryInv (argumentsNeverChange s t h).1 hs

/-- Settles O48: the one write is a STB's, and a read of another address does not see it. -/
theorem onlyStbWritesMemory : Obligations.OnlyStbWritesMemory := by
  intro i s t b h hne
  rcases (exec_effect h).mem_eq_or_stb with hm | ⟨a, v, hi, -, -, hm⟩ <;> rw [hm]
  exact Memory.read_write_of_ne _ _ _ _ (hne a v hi).symm

/-- Settles O50: each byte of the buffer is borrowed, and no step writes a borrowed byte. -/
theorem borrowedPayloadIsStable : Obligations.BorrowedPayloadIsStable := by
  intro s t h hb a hlo hhi
  have hbusy : s.bus.bst.busy = true := by rcases hb with hb | hb | hb <;> rw [hb] <;> rfl
  exact (step_storesAtMostOne h).read_of_borrowed (State.borrowed_of_busy hbusy hlo hhi)

/-- Settles O57: only the bus handler's payload read can fault, and the invariant keeps BPTR inside data memory. -/
theorem noStepFaults : Obligations.NoStepFaults := by
  intro s f hs h
  obtain ⟨i, agenda, draws, hi⟩ := step_fault h
  have hs' : BusInv { s with agenda := agenda, draws := draws } := hs
  exact hs'.exec_ne_fault i f hi

end
end

section
/-! PROOFS. The encoding (30): words decode to an instruction exactly when they begin with its encoding (R82 to R90).
The round trip, the converse direction and the fetch's refusals (R91) are all read off that equivalence. -/

namespace Sys2Proof

/-! ## Fields packed into a word -/

/-- A high field at bit k and a low field of l ≤ k bits make up x exactly when x has these two fields and only 0 bits
between them (30 R84, R85). -/
theorem eq_packed_iff {h k l n : Nat} (hn : k + h = n) (hl : l ≤ k) (hi : BitVec h) (lo : BitVec l) (x : BitVec n) :
    x = hi.setWidth n <<< k ||| lo.setWidth n ↔
      x.extractLsb' k h = hi ∧ x.extractLsb' l (k - l) = 0 ∧ x.extractLsb' 0 l = lo := by
  constructor
  · rintro rfl
    refine ⟨?_, ?_, ?_⟩ <;> apply BitVec.eq_of_getLsbD_eq <;> intro i hlt
    · simp [hlt, show k + i < n by omega, BitVec.getLsbD_of_ge lo (k + i) (by omega)]
    · simp [hlt, show l + i < k by omega]
    · simp [hlt, show i < n by omega, show i < k by omega]
  · rintro ⟨rfl, hz, rfl⟩
    apply BitVec.eq_of_getLsbD_eq
    intro i hlt
    rcases Nat.lt_or_ge i l with hil | hil
    · simp [hlt, hil, show i < k by omega]
    · rcases Nat.lt_or_ge i k with hik | hik
      · have hbit : x.getLsbD i = false := by
          have := congrArg (·.getLsbD (i - l)) hz
          simpa [show i - l < k - l by omega, show l + (i - l) = i by omega] using this
        rw [hbit]
        simp [hik, show ¬ i < l by omega]
      · simp [hlt, show ¬ i < k by omega, show ¬ i < l by omega, show i - k < h by omega,
          show k + (i - k) = i by omega]

/-- A field that stands alone makes up x exactly when it is x's low field and the bits above it are 0. -/
theorem eq_setWidth_iff {k n : Nat} (hk : k ≤ n) (lo : BitVec k) (x : BitVec n) :
    x = lo.setWidth n ↔ x.extractLsb' k (n - k) = 0 ∧ x.extractLsb' 0 k = lo := by
  simpa [BitVec.of_length_zero] using eq_packed_iff (h := 0) rfl hk 0 lo x

/-- A word is put together from an opcode and an operand field exactly when these are its two fields (30 R80). -/
theorem encodeOp_eq_iff (op : Byte) (x : BitVec 24) (w : Word) :
    encodeOp op x = w ↔ opField w = op ∧ operandField w = x :=
  ⟨fun h => by simp [← h], fun ⟨ho, hx⟩ => by rw [← ho, ← hx, encodeOp_fields]⟩

/-- A field inside the operand field is that field of the word. -/
theorem extractLsb'_operandField (w : Word) (start len : Nat) (h : start + len ≤ 24) :
    (operandField w).extractLsb' start len = w.extractLsb' start len := by
  rw [← extractLsb'_encodeOp (opField w) _ start len h, encodeOp_fields]

/-- A bit is 0 exactly when the field of that one bit is. -/
theorem extractLsb'_one_eq_zero_iff {n : Nat} (x : BitVec n) (i : Nat) :
    x.extractLsb' i 1 = 0#1 ↔ x.getLsbD i = false := by
  rw [BitVec.getLsbD_eq_extractLsb']
  rcases BitVec.eq_zero_or_eq_one (x.extractLsb' i 1) with h | h <;> simp [h]

/-! ## The formats (30 R82 to R87): a word of the opcode decodes to the instruction, and it encodes the instruction -/

/-- Format N. -/
theorem decodeN_ok_iff {w : Word} {op : Byte} (hop : opField w = op) (i : Instr) :
    decodeN w i = .ok i ↔ encodeN op = w := by
  simp [decodeN, encodeN, encodeOp_eq_iff, hop]

/-- Format B: the words begin with the two words of SUBMIT. -/
theorem decodeB_ok_iff {w : Word} (hop : opField w = 0x10) (tail : List Word) (addr : BitVec 7) (len base : Half) :
    decodeB w tail.head? = .ok (.submit addr len base) ↔ encode (.submit addr len base) <+: w :: tail := by
  cases tail with
  | nil => simp [decodeB, encode]
  | cons w1 rest =>
    have hfirst := eq_packed_iff (n := 24) (k := 17) rfl (by decide) addr len (operandField w)
    have hsecond := eq_comm.trans (eq_setWidth_iff (n := 32) (by decide) base w1)
    simp [decodeB, ite_eq_iff, encode, encodeOp_eq_iff, hop, hfirst, hsecond, extractLsb'_operandField,
      extractLsb'_one_eq_zero_iff, and_assoc, and_left_comm]

/-- Format S. -/
theorem decodeS_eq_iff {w : Word} (hop : opField w = 0x40) (a : Half) (v : Byte) :
    decodeS w = .stb a v ↔ encode (.stb a v) = [w] := by
  have hpack := eq_packed_iff (n := 24) rfl le_rfl a v (operandField w)
  simp [encode, encodeOp_eq_iff, hop, hpack, decodeS, extractLsb'_operandField]

/-- Format E with a status. -/
theorem decodeE_ok_iff {w : Word} (hop : opField w = 0x82) (st : Byte) :
    decodeE w = .ok (.evBus st) ↔ encode (.evBus st) = [w] := by
  have hpack := eq_setWidth_iff (n := 24) (by decide) st (operandField w)
  simp [encode, encodeOp_eq_iff, hop, hpack, extractLsb'_operandField, decodeE, ite_eq_iff]

/-! ## Decoding -/

/-- A one-word encoding begins a list of words exactly when it is its first word. -/
theorem encode_prefix_iff {i : Instr} (hl : i.length = 1) (w : Word) (tail : List Word) :
    encode i <+: w :: tail ↔ encode i = [w] := by
  cases i
  case submit => cases hl
  all_goals simp [encode]

/-- A word of the instruction's opcode decodes to it exactly when the words begin with its encoding. -/
theorem decodeWord_ok_iff_of_opcode {w : Word} {i : Instr} (hop : opField w = i.opcode) (tail : List Word) :
    decodeWord w tail.head? = .ok i ↔ encode i <+: w :: tail := by
  cases i
  case submit addr len base =>
    rw [← decodeB_ok_iff hop]
    simp [decodeWord, hop, Instr.opcode]
  all_goals
    rw [encode_prefix_iff rfl]
    simp only [decodeWord, hop, Instr.opcode]
  case waits n | waitus n => simp [encode, encodeOp_eq_iff, show opField w = _ from hop, Instr.opcode]
  case stb a v => rw [← decodeS_eq_iff hop]; simp
  case evBus st => exact decodeE_ok_iff hop st
  all_goals exact (decodeN_ok_iff hop _).trans List.singleton_inj.symm

/-- An instruction's encoding is a word of its opcode, and the words after it (30 R88). -/
theorem encode_eq_cons (i : Instr) : ∃ operand tail, encode i = encodeOp i.opcode operand :: tail := by
  cases i <;> exact ⟨_, _, rfl⟩

/-- Words decode to an instruction exactly when they begin with its encoding. -/
theorem decodeWords_ok_iff (ws : List Word) (i : Instr) : decodeWords ws = .ok i ↔ encode i <+: ws := by
  obtain ⟨operand, rest, hi⟩ := encode_eq_cons i
  cases ws with
  | nil => simp [decodeWords, hi]
  | cons w tail =>
    by_cases hop : opField w = i.opcode
    · exact decodeWord_ok_iff_of_opcode hop tail
    · refine iff_of_false (fun h => hop (decodeWord_opcode h)) fun h => hop ?_
      rw [hi, List.cons_prefix_cons] at h
      rw [← h.1, opField_encodeOp]

/-- The opcode settles the length: 2 words for 0x10, 1 for every other (30 R90). -/
theorem Instr.length_eq_two_iff (i : Instr) : i.length = 2 ↔ i.opcode = 0x10 := by
  cases i <;> simp [Instr.length, Instr.opcode]

/-- The words an instruction takes are its encoding. -/
theorem encode_eq_take {ws : List Word} {i : Instr} (h : decodeWords ws = .ok i) : encode i = ws.take i.length := by
  have hlen : (encode i).length = i.length := by cases i <;> rfl
  rw [← hlen]
  exact List.prefix_iff_eq_take.1 ((decodeWords_ok_iff ws i).1 h)

/-- The opcode of words that decode is the instruction's. -/
theorem opField_of_decodeWords {w : Word} {tail : List Word} {i : Instr} (h : decodeWords (w :: tail) = .ok i) :
    opField w = i.opcode := decodeWord_opcode h

/-! ## The fetch (30 R91) -/

/-- A fetch answers the thread commands that the words at pc decode to, and nothing else. -/
theorem fetchAt_ok_iff (cl : List Word) (pc : Nat) (i : Instr) :
    fetchAt cl pc = .ok i ↔ decodeWords (cl.drop pc) = .ok i ∧ i.isCommand = true := by
  unfold fetchAt
  cases cl.drop pc with
  | nil => simp [decodeWords]
  | cons w tail =>
    rw [← opcode_mem_commandOpcodes, ite_eq_iff]
    simp only [decodeWords, List.contains_iff_mem, reduceCtorEq, and_false, or_false]
    rw [and_comm]
    exact and_congr_right fun h => by rw [decodeWord_opcode h]

/-- The opcodes of the commands of format N (30 R91). -/
abbrev formatNOpcodes : List Byte := [0x00, 0x01, 0x02, 0x03, 0x11, 0x22, 0x30, 0x31, 0x32]

/-- A command of format N is encoded as its opcode and a zero operand field (30 R82). -/
theorem encode_of_formatN {i : Instr} (h : i.opcode ∈ formatNOpcodes) : encode i = [encodeN i.opcode] := by
  cases i
  case submit | waits | waitus | stb | evBus => simp [Instr.opcode] at h
  all_goals rfl

/-- Words that decode to a command of format N have a zero operand field. -/
theorem operandField_of_formatN {w : Word} {tail : List Word} {i : Instr} (h : decodeWords (w :: tail) = .ok i)
    (hop : opField w ∈ formatNOpcodes) : operandField w = 0 := by
  rw [opField_of_decodeWords h] at hop
  have hp := (decodeWords_ok_iff _ i).1 h
  rw [encode_of_formatN hop, List.cons_prefix_cons] at hp
  rw [← hp.1]
  exact operandField_encodeOp _ 0

/-- Words of opcode 0x10 that decode have a second word, and their reserved bits are 0 (30 R84). -/
theorem submit_tail_of_decodeWords {w : Word} {tail : List Word} {i : Instr} (h : decodeWords (w :: tail) = .ok i)
    (hop : opField w = 0x10) :
    ∃ w1, tail.head? = some w1 ∧ w.getLsbD 16 = false ∧ w1.extractLsb' 16 16 = 0 := by
  have hb : decodeB w tail.head? = .ok i := by simpa [decodeWords, decodeWord, hop] using h
  obtain ⟨w1, ht, hrw, hres, -⟩ := decodeB_ok hb
  exact ⟨w1, ht, hrw, hres⟩

namespace Machine

/-- In phase RUN, where the words at pc decode to no command, the thread step is the refusal of 60 R202. -/
theorem threadStep_of_no_command {s : State} {ws : List Word} (hp : s.tph = .run) (hws : s.cl.drop s.pc = ws)
    (h : ∀ i, decodeWords ws = .ok i → ¬ i.isCommand = true) : threadStep s = .next s.refuse := by
  simp only [threadStep, hp, fetchStep]
  split
  · next i hf =>
    obtain ⟨hd, hc⟩ := (fetchAt_ok_iff s.cl s.pc i).1 hf
    exact absurd hc (h i (hws ▸ hd))
  · rfl

/-- The words at pc begin with the word there. -/
theorem drop_pc_eq_cons {s : State} {w : Word} (h : s.cl[s.pc]? = some w) :
    s.cl.drop s.pc = w :: s.cl.drop (s.pc + 1) := by
  obtain ⟨hlt, rfl⟩ := List.getElem?_eq_some_iff.1 h
  exact List.drop_eq_getElem_cons hlt

end Machine

end Sys2Proof

/-! ## The obligations -/

section
open Sys2Proof Sys2Proof.Machine

/-- Settles O1: the encoding begins with itself. -/
theorem decodeOfEncodeIsTheInstruction : Obligations.DecodeOfEncodeIsTheInstruction :=
  fun i => (decodeWords_ok_iff (encode i) i).2 List.prefix_rfl

/-- Settles O2: the words taken are the encoding, and for a one-word instruction they are the first word alone. -/
theorem decodedWordsAreTheEncoding : Obligations.DecodedWordsAreTheEncoding := by
  intro w0 w1 i h
  have hlen : i.length = 2 ↔ opField w0 = 0x10 := by rw [opField_of_decodeWords h, i.length_eq_two_iff]
  refine ⟨encode_eq_take h, hlen, fun hne => ?_⟩
  have hone : i.length = 1 := by
    cases i
    case submit => exact absurd (hlen.1 rfl) hne
    all_goals rfl
  have henc : encode i = [w0] := by rw [encode_eq_take h, hone]; rfl
  exact henc ▸ decodeOfEncodeIsTheInstruction i

/-- Settles O4: each refusal says that the words at pc decode to no command; words that begin with a command's encoding
decode to it. -/
theorem fetchRefusesOrRunsTheCommand : Obligations.FetchRefusesOrRunsTheCommand := by
  intro s hp
  refine ⟨fun hpc => ?pcRange, fun w hw => ?atWord, fun i hc henc => ?runs⟩
  case pcRange => exact threadStep_of_no_command hp (List.drop_eq_nil_of_le hpc) fun i hd => nomatch hd
  case atWord =>
    have refuses := fun h => threadStep_of_no_command hp (drop_pc_eq_cons hw) h
    refine ⟨fun hop => refuses fun i hd hc => ?_, fun hop hne => refuses fun i hd _ => ?_,
      fun hop hend => refuses fun i hd _ => ?_, fun hop w1 hw1 hres => refuses fun i hd _ => ?_⟩
    · rw [opField_of_decodeWords hd] at hop
      exact hop ((opcode_mem_commandOpcodes i).2 hc)
    · exact hne (operandField_of_formatN hd hop)
    · obtain ⟨w1, ht, -⟩ := submit_tail_of_decodeWords hd hop
      rw [List.drop_eq_nil_of_le hend] at ht
      cases ht
    · obtain ⟨w1', ht, hrw, hz⟩ := submit_tail_of_decodeWords hd hop
      rw [List.head?_drop, hw1] at ht
      cases ht
      exact hres.elim (fun hbit => Bool.false_ne_true (hrw.symm.trans hbit)) (absurd hz)
  case runs =>
    have hd : decodeWords (s.cl.drop s.pc) = .ok i := (decodeWords_ok_iff _ i).2 (henc ▸ List.take_prefix _ _)
    exact takeAction_thread_of_fetch hp ((fetchAt_ok_iff _ _ i).2 ⟨hd, hc⟩)

/-- Settles O3: the encoder writes the eleven, and decoding what it writes gives the instruction back. -/
theorem workedEncodings : Obligations.WorkedEncodings := by
  intro p hp
  have henc : encode p.1 = p.2 := by
    revert p
    decide
  exact ⟨henc, henc ▸ decodeOfEncodeIsTheInstruction p.1⟩

end
end

section
/-! PROOFS. The Edge Capture Decoder (40): what ARM, DISARM, DECODE and the capture entry answer, the bits and the
verdict of a full window (R110 to R115), the interval function (R108), the readings of the results (R116), and who
writes the window (R117, R118). -/

namespace Sys2Proof.Machine

/-! ## Frames -/

/-- What an instruction that raises no fault leaves alone: with the registers its rules name inside the list, it is a
quiet step when it writes neither the arguments, nor data memory, nor the trace. -/
theorem quietStep_of_exec {i : Instr} {s t : State} {regs : List RegName} (h : exec i s = .next t)
    (hregs : ∀ r, writesRegister i r = true → r ≠ .fault → r ∈ regs) (hf : t.fault = s.fault)
    (ha : ArgumentsKept s t) (hm : t.mem = s.mem) (hb : t.bus.btrace = s.bus.btrace) : QuietStep regs s t := by
  refine ⟨⟨fun r hr => ?_, ha⟩, fun a => by rw [hm], hb⟩
  by_cases hfault : r = .fault
  · subst hfault
    exact congrArg BitVec.toNat hf
  · exact (exec_effect h).value_eq (Bool.eq_false_iff.2 fun hw => hr (hregs r hw hfault))

/-- The registers ARM writes but for FAULT (40 R101). -/
theorem mem_of_writesRegister_arm (r : RegName) (hw : writesRegister .arm r = true) (hf : r ≠ .fault) :
    r ∈ [.ec, .lastEdge, .thr, .ieCap, .ifCap] ++ ivRegs := by
  cases r
  case fault => exact absurd rfl hf
  case ec | lastEdge | thr | iv | ieCap | ifCap => simp
  all_goals cases hw

/-- The register DISARM writes (40 R102). -/
theorem mem_of_writesRegister_disarm (r : RegName) (hw : writesRegister .disarm r = true) : r ∈ [.ieCap] := by
  cases r
  case ieCap => exact List.mem_singleton_self _
  all_goals cases hw

/-- The registers DECODE writes but for FAULT (40 R103). -/
theorem mem_of_writesRegister_decode (r : RegName) (hw : writesRegister .decode r = true) (hf : r ≠ .fault) :
    r ∈ [.rval, .rhum, .rtemp] := by
  cases r
  case fault => exact absurd rfl hf
  case rval | rhum | rtemp => simp
  all_goals cases hw

/-- The registers the capture entry writes (40 R104, 60 R205). -/
theorem mem_of_writesRegister_intCap (r : RegName) (hw : writesRegister .intCap r = true) :
    r ∈ [.ec, .lastEdge, .ifCap] ++ ivRegs := by
  cases r
  case ec | lastEdge | iv | ifCap => simp
  all_goals cases hw

/-! ## ARM, DISARM and DECODE, case by case -/

/-- ARM from an Idle window (40 R101). -/
theorem exec_arm {s : State} (h : s.irq.ieCap = false) : exec .arm s = .next ((armWindow s).advance 1) := by
  simp [exec, execArm, h]

/-- ARM while armed (40 R101). -/
theorem exec_arm_of_armed {s : State} (h : s.irq.ieCap = true) : exec .arm s = .next (s.raise .armArmed) := by
  simp [exec, execArm, h]

/-- DECODE while armed (40 R103). -/
theorem exec_decode_of_armed {s : State} (h : s.irq.ieCap = true) :
    exec .decode s = .next (s.raise .decodeArmed) := by
  simp [exec, execDecode, h]

/-- DECODE of too short a window (40 R110). -/
theorem exec_decode_short {s : State} (h : s.irq.ieCap = false) (he : s.win.edgeCount < 43) :
    exec .decode s = .next ((decodeShort s).advance 1) := by
  simp [exec, execDecode, h, decodeMinEdges, he]

/-- A DECODE that writes results r and draws free values up to d is quiet. -/
theorem quietStep_decode {s : State} {r : Results} {d : Nat}
    (h : exec .decode s = .next ({ s with res := r, draws := d }.advance 1)) :
    QuietStep [.rval, .rhum, .rtemp] s ({ s with res := r, draws := d }.advance 1) :=
  quietStep_of_exec h mem_of_writesRegister_decode rfl ⟨rfl, rfl, rfl, rfl⟩ rfl rfl

/-! ## The bits of a full window (40 R111 to R113) -/

/-- The i-th bit received into a field of len bits is bit len - 1 - i of it, and compares its interval with THR. -/
theorem Window.getLsbD_ofNat_field (w : Window) {start len i : Nat} (hi : i < len) (hw : start + i < 40) :
    (BitVec.ofNat len (w.field start len)).getLsbD (len - 1 - i) =
      decide (w.threshold < w.intervals[start + i]) := by
  have hlt : len - 1 - i < len := by omega
  rw [BitVec.getLsbD_ofNat, w.testBit_field start len i hi, w.bit_of_lt _ hw, decide_eq_true hlt, Bool.true_and]

/-- The bits of hum: the first 16 data bits (40 R112). -/
theorem Window.getLsbD_humidity (w : Window) (i : Fin 16) :
    w.humidity.getLsbD (15 - i) = decide (w.threshold < w.intervals[i.val]) := by
  have h := w.getLsbD_ofNat_field (start := 0) i.isLt (by omega)
  simp only [Nat.zero_add] at h
  exact h

/-- The bits of temp: the next 16 (40 R112). -/
theorem Window.getLsbD_temperature (w : Window) (i : Fin 16) :
    w.temperature.getLsbD (15 - i) = decide (w.threshold < w.intervals[16 + i.val]) :=
  w.getLsbD_ofNat_field i.isLt (by omega)

/-- The bits of ck: the last eight (40 R113). -/
theorem Window.getLsbD_checksum (w : Window) (i : Fin 8) :
    w.checksum.getLsbD (7 - i) = decide (w.threshold < w.intervals[32 + i.val]) :=
  w.getLsbD_ofNat_field i.isLt (by omega)

/-- A field without a 1 among its bits is 0. -/
theorem Window.field_eq_zero {w : Window} (h : ∀ i, w.bit i = false) (start len : Nat) : w.field start len = 0 := by
  induction len with
  | zero => rfl
  | succ n ih => rw [Window.field_succ, ih, h]; rfl

/-- No interval exceeds the greatest threshold (40 R115). -/
theorem Window.bit_eq_false_of_threshold {w : Window} (h : w.threshold = 0xFFFF) (i : Nat) : w.bit i = false := by
  by_cases hi : i < 40
  · rw [w.bit_of_lt i hi, h]
    exact decide_eq_false BitVec.not_allOnes_lt
  · simp [Window.bit, hi]

/-! ## The verdict (40 R114) -/

/-- The checksum is compared with the low and the high byte of each result, added modulo 256. -/
theorem toNat_byteSum (hum temp : Half) :
    (byteSum hum temp).toNat =
      (hum.toNat % 256 + hum.toNat / 256 + temp.toNat % 256 + temp.toNat / 256) % 256 := by
  have hhum : hum.toNat / 256 < 256 := by omega
  have htemp : temp.toNat / 256 < 256 := by omega
  simp only [byteSum, BitVec.toNat_ofNat, BitVec.extractLsb'_toNat, Nat.shiftRight_eq_div_pow]
  omega

/-- RVAL as a number: 0 for Valid, 1 for ParityError (10 R47). -/
theorem Window.toNat_code_verdict (w : Window) :
    w.verdict.code.toNat = if w.checksum.toNat = (w.humidity.toNat % 256 + w.humidity.toNat / 256
      + w.temperature.toNat % 256 + w.temperature.toNat / 256) % 256 then 0 else 1 := by
  rw [← toNat_byteSum, Window.verdict]
  simp only [BitVec.toNat_inj]
  split <;> rfl

/-- The state t holds what DECODE reads in the full window of s. The results stand behind equations, so that no proof
about them evaluates the window. -/
structure DecodedFrom (s t : State) : Prop where
  verdict : t.res.rval = s.win.verdict
  humidity : t.res.rhum = s.win.humidity
  temperature : t.res.rtemp = s.win.temperature
  window : t.win = s.win
  pc : t.pc = s.pc + 1
  tph : t.tph = s.tph
  quiet : QuietStep [.rval, .rhum, .rtemp] s t

/-- DECODE of a full window (40 R103, R111 to R114). -/
theorem exec_decode_full {s : State} (hc : s.irq.ieCap = false) (he : 43 ≤ s.win.edgeCount) :
    ∃ t, exec .decode s = .next t ∧ DecodedFrom s t := by
  obtain ⟨verdict, hv⟩ : ∃ v, v = s.win.verdict := ⟨_, rfl⟩
  obtain ⟨hum, hh⟩ : ∃ h, h = s.win.humidity := ⟨_, rfl⟩
  obtain ⟨temp, ht⟩ : ∃ t, t = s.win.temperature := ⟨_, rfl⟩
  have h : exec .decode s = .next ({ s with
      res := { s.res with rval := verdict, rhum := hum, rtemp := temp }, draws := s.draws }.advance 1) := by
    simp [exec, execDecode, hc, decodeMinEdges, Nat.not_lt.2 he, decodeFull, hv, hh, ht]
  exact ⟨_, h, hv, hh, ht, rfl, rfl, rfl, quietStep_decode h⟩

/-- RVAL by the results themselves: the checksum is compared with their four bytes (40 R114). -/
theorem DecodedFrom.value_rval {s t : State} (h : DecodedFrom s t) :
    t.value .rval = if s.win.checksum.toNat = (t.value .rhum % 256 + t.value .rhum / 256 + t.value .rtemp % 256
      + t.value .rtemp / 256) % 256 then 0 else 1 := by
  simp only [State.value, h.verdict, h.humidity, h.temperature, s.win.toNat_code_verdict]

/-- The i-th bit of RHUM, most significant first (40 R111, R112). -/
theorem DecodedFrom.getLsbD_rhum {s t : State} (h : DecodedFrom s t) (i : Fin 16) :
    t.res.rhum.getLsbD (15 - i) = decide (s.win.threshold < s.win.intervals[i.val]) := by
  rw [h.humidity, s.win.getLsbD_humidity]

/-- The i-th bit of RTEMP, most significant first (40 R111, R112). -/
theorem DecodedFrom.getLsbD_rtemp {s t : State} (h : DecodedFrom s t) (i : Fin 16) :
    t.res.rtemp.getLsbD (15 - i) = decide (s.win.threshold < s.win.intervals[16 + i.val]) := by
  rw [h.temperature, s.win.getLsbD_temperature]

/-! ## The interval function (40 R108) -/

/-- Without a wrap the interval is the difference of the timestamps. -/
theorem toNat_interval_of_lt (p : Nat) {ts last : Half} (h : last.toNat < ts.toNat) :
    (interval p ts last).toNat = ts.toNat - last.toNat := by
  have hlt : last < ts := BitVec.lt_def.2 h
  rw [interval, if_pos hlt, BitVec.toNat_sub_of_le (BitVec.le_of_lt hlt)]

/-- With one it is what is missing from a full period. -/
theorem toNat_interval_of_le {p : Nat} (hp : p ≤ 65535) {ts last : Half} (h : ts.toNat ≤ last.toNat) :
    (interval p ts last).toNat = p - (last.toNat - ts.toNat) := by
  have hle : ¬ last < ts := fun hlt => Nat.not_lt.2 h (BitVec.lt_def.1 hlt)
  rw [interval, if_neg hle, BitVec.toNat_ofNat, Nat.mod_eq_of_lt (by omega)]

/-- The interval leads from the previous timestamp to the current one, on a timer of period P. -/
theorem add_interval_mod {p : Nat} (hp : p ≤ 65535) {ts last : Half} (hts : ts.toNat < p) (hlast : last.toNat < p) :
    (last.toNat + (interval p ts last).toNat) % p = ts.toNat := by
  by_cases h : last.toNat < ts.toNat
  · rw [toNat_interval_of_lt p h, Nat.add_sub_cancel' h.le, Nat.mod_eq_of_lt hts]
  · have hsum : last.toNat + (p - (last.toNat - ts.toNat)) = ts.toNat + p := by omega
    rw [toNat_interval_of_le hp (Nat.le_of_not_lt h), hsum, Nat.add_mod_right, Nat.mod_eq_of_lt hts]

/-! ## The readings of the results (40 R116) -/

/-- The temperature's magnitude is its low 15 bits, and its sign is bit 15. -/
theorem temperatureTenths_eq (raw : Half) :
    temperatureTenths raw = (if 32768 ≤ raw.toNat then (-1 : Int) else 1) * ((raw.toNat % 32768 : Nat) : Int) := by
  have hmagnitude : (raw.extractLsb' 0 15).toNat = raw.toNat % 32768 := BitVec.extractLsb'_toNat 0 15 raw
  have hsign : raw.getLsbD 15 = decide (32768 ≤ raw.toNat) :=
    (BitVec.msb_eq_getLsbD_last raw).symm.trans (BitVec.msb_eq_decide raw)
  simp only [temperatureTenths, hmagnitude, hsign, decide_eq_true_eq, ite_mul, neg_one_mul, one_mul]

/-! ## The capture entry, and who writes the window (40 R104, R117, R118) -/

/-- An enabled capture entry (40 R104, 60 R205). -/
theorem exec_intCap {s : State} (h : s.entryEnabled .capture = true) :
    exec .intCap s =
      .next { s with win := recordEdge s.params s.clk.icr s.win, irq := s.irq.clear .capture, tph := s.tph.woken } :=
  (execIntCap_next_iff s _).2 ⟨h, rfl⟩

/-- The window after any instruction but ARM: a capture entry, which was then enabled, records an edge in it, and no
other instruction writes it. -/
theorem Effect.win_eq {i : Instr} {s t : State} (h : Effect s i t) (hi : i ≠ .arm) :
    (i ≠ .intCap ∧ t.win = s.win) ∨
      (i = .intCap ∧ s.entryEnabled .capture = true ∧ t.win = recordEdge s.params s.clk.icr s.win) := by
  cases h
  case arm => exact absurd rfl hi
  case raised f hf => exact .inl ⟨fun he => by simp [he, writesRegister] at hf, rfl⟩
  case captureEntry he => exact .inr ⟨rfl, he, rfl⟩
  all_goals exact .inl ⟨nofun, rfl⟩

/-- The capture entry is not enabled while IE_CAP is 0 (60 R204). -/
theorem entryEnabled_capture_of_disarmed {s : State} (h : s.irq.ieCap = false) : s.entryEnabled .capture = false := by
  simp [State.entryEnabled, Irq.enable, h]

/-- In a data edge exactly the interval of its own number is written (40 R107). -/
theorem recordEdge_interval {p : Params} {ts : Half} {w : Window} (h3 : 3 ≤ nextEdgeCount p w)
    (h42 : nextEdgeCount p w ≤ 42) (i : Fin 40) :
    (recordEdge p ts w).intervals[i] =
      if i.val + 3 = nextEdgeCount p w then interval p.period ts w.lastEdge else w.intervals[i] := by
  have hidx : nextEdgeCount p w - 3 = i.val ↔ i.val + 3 = nextEdgeCount p w := by omega
  rw [recordEdge_data p ts w h3 h42]
  simp only [Fin.getElem_fin, Vector.getElem_setIfInBounds, hidx]

end Sys2Proof.Machine

/-! ## The obligations -/

section
open Sys2Proof Sys2Proof.Machine

/-- Settles O12: the three branches of DECODE, with the bits and the verdict of the full window. -/
theorem decodeReadsTheWindow : Obligations.DecodeReadsTheWindow := by
  intro s
  refine ⟨fun hc => ?armed, fun hc he => ?short, fun hc he => ?full, rfl⟩
  case armed => exact ⟨_, exec_decode_of_armed hc, faultedWith_raise s .decodeArmed⟩
  case short =>
    have h := exec_decode_short hc he
    exact ⟨_, h, rfl, rfl, rfl, quietStep_decode h⟩
  case full =>
    obtain ⟨t, h, hd⟩ := exec_decode_full hc he
    exact ⟨t, h, hd.getLsbD_rhum, hd.getLsbD_rtemp, ⟨s.win.checksum, s.win.getLsbD_checksum, hd.value_rval⟩, hd.pc,
      hd.tph, hd.quiet⟩

/-- Settles O13: the comparison with THR at its corners, bit by bit. -/
theorem thresholdCorners : Obligations.ThresholdCorners := by
  intro s hc he
  obtain ⟨t, h, hd⟩ := exec_decode_full hc he
  have equal : ∀ v : Half, v = s.win.threshold → decide (s.win.threshold < v) = false := fun v hv => by simp [hv]
  have zero : s.win.threshold = 0 → ∀ v : Half, decide (s.win.threshold < v) = decide (v ≠ 0) := fun h0 v => by
    rw [h0]
    exact decide_eq_decide.2 (BitVec.pos_iff_ne_zero v)
  refine ⟨t, h, hd.value_rval, fun i hi => (hd.getLsbD_rhum i).trans (equal _ hi),
    fun i hi => (hd.getLsbD_rtemp i).trans (equal _ hi), fun i hi => (s.win.getLsbD_checksum i).trans (equal _ hi),
    fun hmax => ?greatest, fun h0 => ?least⟩
  case greatest =>
    have hfield := Window.field_eq_zero (Window.bit_eq_false_of_threshold hmax)
    have hhum : t.value .rhum = 0 := by simp [State.value, hd.humidity, Window.humidity, hfield]
    have htemp : t.value .rtemp = 0 := by simp [State.value, hd.temperature, Window.temperature, hfield]
    have hck : s.win.checksum = 0 := by simp [Window.checksum, hfield]
    have hval : t.value .rval = 0 := by
      rw [hd.value_rval, hhum, htemp, hck]
      rfl
    exact ⟨hhum, htemp, hck, hval⟩
  case least =>
    exact ⟨fun i => ⟨(hd.getLsbD_rhum i).trans (zero h0 _), (hd.getLsbD_rtemp i).trans (zero h0 _)⟩,
      fun i => (s.win.getLsbD_checksum i).trans (zero h0 _)⟩

/-- Settles O14: DECODE computes its results from the window, and only an enabled capture entry or ARM writes it. -/
theorem decodeIsRepeatable : Obligations.DecodeIsRepeatable := by
  constructor
  · intro s t hs ht hw
    by_cases he : s.win.edgeCount < 43
    · exact ⟨_, _, exec_decode_short hs he, exec_decode_short ht (hw ▸ he), rfl, rfl, rfl, fun h => absurd rfl h⟩
    · have he := Nat.le_of_not_lt he
      obtain ⟨s', hs', hds⟩ := exec_decode_full hs he
      obtain ⟨t', ht', hdt⟩ := exec_decode_full ht (hw ▸ he)
      exact ⟨s', t', hs', ht', hds.window, hdt.window, by rw [hds.verdict, hdt.verdict, hw],
        fun _ => ⟨by rw [hds.humidity, hdt.humidity, hw], by rw [hds.temperature, hdt.temperature, hw]⟩⟩
  · intro i s t h hc hi
    rcases (exec_effect h).win_eq hi with ⟨-, hw⟩ | ⟨-, he, -⟩
    · exact hw
    · simp [entryEnabled_capture_of_disarmed hc] at he

/-- Settles O15: the two branches of the function, and its corner cases as special cases. -/
theorem intervalAccountsForOneWrap : Obligations.IntervalAccountsForOneWrap := by
  intro p ts last h2 hp hts hlast
  have below : ∀ n ≤ p, (BitVec.ofNat 16 n).toNat = n := fun n hn => Nat.mod_eq_of_lt (by omega)
  have h0 : (0 : Half).toNat = 0 := rfl
  have h10 : (10 : Half).toNat = 10 := rfl
  refine ⟨fun h => ?noWrap, fun h => ?wrap, add_interval_mod hp hts hlast, ?equal, ?first, ?last, fun h15 => ?worked⟩
  case noWrap =>
    rw [toNat_interval_of_lt p h]
    omega
  case wrap =>
    rw [toNat_interval_of_le hp h]
    omega
  case equal => rw [toNat_interval_of_le hp le_rfl, Nat.sub_self, Nat.sub_zero]
  case first =>
    have hlast := below (p - 1) (by omega)
    apply BitVec.eq_of_toNat_eq
    rw [toNat_interval_of_le hp (h0 ▸ Nat.zero_le _), hlast, h0]
    exact show p - (p - 1 - 0) = 1 by omega
  case last =>
    have hts := below (p - 1) (by omega)
    rw [toNat_interval_of_lt p (by omega), hts, h0, Nat.sub_zero]
  case worked =>
    have hlast := below (p - 5) (by omega)
    apply BitVec.eq_of_toNat_eq
    rw [toNat_interval_of_le hp (by omega), hlast, h10]
    exact show p - (p - 5 - 10) = 15 by omega

/-- Settles O16: the three branches of the count, which write LET and the intervals each in its own way. -/
theorem captureEntryRecordsTheEdge : Obligations.CaptureEntryRecordsTheEdge := by
  intro s hgie hie hif
  have he : s.entryEnabled .capture = true := by simp [State.entryEnabled, Irq.enable, Irq.pending, hgie, hie, hif]
  have h := exec_intCap he
  have hec := recordEdge_edgeCount s.params s.clk.icr s.win
  refine ⟨_, h, hec, fun h2 => ?handshake, fun h42 => ?discard, fun h3 h42 => ?data, rfl, rfl, woken_of_tph s _ rfl,
    quietStep_of_exec h (fun r hw _ => mem_of_writesRegister_intCap r hw) rfl ⟨rfl, rfl, rfl, rfl⟩ rfl rfl⟩
  case handshake =>
    have hw := recordEdge_handshake s.params s.clk.icr s.win (hec ▸ h2)
    simp [State.value, hw]
  case discard =>
    have hw := recordEdge_discard s.params s.clk.icr s.win (hec ▸ h42)
    simp [State.value, hw]
  case data =>
    have h3 : 3 ≤ nextEdgeCount s.params s.win := hec ▸ h3
    have h42 : nextEdgeCount s.params s.win ≤ 42 := hec ▸ h42
    have hw := recordEdge_data s.params s.clk.icr s.win h3 h42
    refine ⟨congrArg (·.lastEdge.toNat) hw, fun i => ?_⟩
    have hiv := recordEdge_interval (ts := s.clk.icr) h3 h42 i
    simp only [State.value, hiv, hec, apply_ite BitVec.toNat]

/-- Settles O17: the window after an instruction that is not ARM, and its count after an edge. -/
theorem edgeCountOnlyCountsUp : Obligations.EdgeCountOnlyCountsUp := by
  intro i s t h hi
  rcases (exec_effect h).win_eq hi with ⟨hne, hw⟩ | ⟨rfl, -, hw⟩
  · have hec : t.value .ec = s.value .ec := congrArg Window.edgeCount hw
    exact ⟨.inl hec, fun _ => hec.ge, fun he => absurd he hne⟩
  · have hec : t.value .ec = (s.value .ec + 1) % 2 ^ s.params.ecBits :=
      (congrArg Window.edgeCount hw).trans (recordEdge_edgeCount _ _ _)
    refine ⟨.inr ⟨rfl, hec⟩, fun hlt => ?counts, fun _ hwrap => ?wraps⟩
    case counts =>
      rw [hec, Nat.mod_eq_of_lt hlt]
      exact Nat.le_succ _
    case wraps =>
      have hzero : nextEdgeCount s.params s.win = 0 :=
        (congrArg (· % 2 ^ s.params.ecBits) hwrap).trans (Nat.mod_self _)
      rw [recordEdge_handshake _ _ _ (hzero ▸ Nat.zero_le 2)] at hw
      exact ⟨(congrArg Window.edgeCount hw).trans hzero, congrArg (·.lastEdge.toNat) hw⟩

/-- Settles O10: the check of IE_CAP, and the fresh window where it passes. -/
theorem armOpensAWindow : Obligations.ArmOpensAWindow := by
  intro s
  refine ⟨fun hc => ?idle, fun hc => ⟨_, exec_arm_of_armed hc, faultedWith_raise s .armArmed⟩, rfl⟩
  case idle =>
    have h := exec_arm hc
    refine ⟨_, h, rfl, rfl, fun i => ?_, rfl, rfl, ?_, rfl, rfl,
      quietStep_of_exec h mem_of_writesRegister_arm rfl ⟨rfl, rfl, rfl, rfl⟩ rfl rfl⟩
    · exact congrArg BitVec.toNat (Vector.getElem_replicate i.isLt)
    · show (if s.params.armClearsCapturePending then false else s.irq.ifCap).toNat = _
      split <;> rfl

/-- Settles O11: DISARM clears IE_CAP, without which the capture entry is not enabled. -/
theorem disarmClosesTheWindow : Obligations.DisarmClosesTheWindow := by
  intro s
  refine ⟨rfl, _, rfl, rfl, rfl, rfl, ?_, ?_⟩
  · exact quietStep_of_exec rfl (fun r hw _ => mem_of_writesRegister_disarm r hw) rfl ⟨rfl, rfl, rfl, rfl⟩ rfl rfl
  · exact exec_entry_of_not_enabled (q := .capture) (entryEnabled_capture_of_disarmed rfl)

/-- Settles O18: the sign-magnitude reading, and the examples. -/
theorem outputInterpretation : Obligations.OutputInterpretation :=
  ⟨fun _ => rfl, temperatureTenths_eq, by decide, by decide, by decide⟩

end
end

section
/-! PROOFS. The Bus Master (41): the consistency of the transaction's registers and who writes them (R130, R140, R142),
what SUBMIT, AWAIT and the bus interrupt answer, case by case (R131 to R138), and the run of an acknowledged
transaction (R142). -/

namespace Sys2Proof.Machine

/-! ## Busy or not (10 R47) -/

/-- The three busy states. -/
theorem BusState.busy_iff (b : BusState) : b.busy = true ↔ b = .starting ∨ b = .addressSent ∨ b = .dataSending := by
  cases b <;> decide

/-- The three others. -/
theorem BusState.not_busy_iff (b : BusState) : b.busy = false ↔ b = .idle ∨ b = .stopped ∨ b = .error := by
  cases b <;> decide

/-! ## The next payload byte (41 R136, R137, R141) -/

/-- BREM counts down. -/
theorem toNat_sub_one {x : Half} (h : x ≠ 0) : (x - 1).toNat = x.toNat - 1 := by
  bv_omega

/-- BPTR counts up, below the last address. -/
theorem toNat_nextPtr {s : State} (h : s.bus.bptr ≠ 0xFFFF) : s.nextPtr.toNat = s.bus.bptr.toNat + 1 := by
  rw [State.nextPtr, if_neg h]
  bv_omega

/-- BPTR and BREM move together towards the end of a buffer in data memory, while a byte remains: BPTR is 0xFFFF only
at the last byte. -/
theorem nextPtr_add_brem {s : State} {stop : Nat} (hstop : stop ≤ 65536)
    (h : s.bus.bptr.toNat + s.bus.brem.toNat = stop) (hr : s.bus.brem ≠ 0) (hr' : s.bus.brem - 1 ≠ 0) :
    s.nextPtr.toNat + (s.bus.brem - 1).toNat = stop := by
  have hpos := BitVec.toNat_pos_of_ne_zero hr'
  have hsub := toNat_sub_one hr
  have hptr : s.bus.bptr ≠ 0xFFFF := fun he => by
    have hlast : s.bus.bptr.toNat = 65535 := congrArg BitVec.toNat he
    omega
  rw [toNat_nextPtr hptr, hsub]
  omega

/-! ## The consistency of the transaction's registers (41 R130 to R142, 60 R213, R214) -/

/-- Outside a transaction nothing is in flight and nothing pending. -/
theorem BusInv.quiet {s : State} (hs : BusInv s) (hb : s.bus.bst.busy = false) :
    s.bus.bhw = false ∧ s.irq.ifBus = false := by
  obtain ⟨-, hs⟩ := hs
  rcases (BusState.not_busy_iff _).1 hb with hb | hb | hb <;> simpa only [hb] using hs

/-- So no bus interrupt can be taken. -/
theorem BusInv.entry_not_enabled {s : State} (hs : BusInv s) (hb : s.bus.bst.busy = false) :
    s.entryEnabled .bus = false := by
  simp [State.entryEnabled, Irq.pending, (hs.quiet hb).2]

/-- During a transaction exactly one of the two holds, and the buffer lies in data memory. -/
theorem BusInv.underway {s : State} (hs : BusInv s) (hb : s.bus.bst.busy = true) :
    s.bus.bhw ≠ s.irq.ifBus ∧ s.bus.bbase.toNat + s.bus.blen.toNat ≤ s.params.memSize := by
  obtain ⟨-, hs⟩ := hs
  rcases (BusState.busy_iff _).1 hb with hb | hb | hb <;> simp only [hb] at hs <;> exact ⟨hs.1, hs.2.1⟩

/-- A pending bus interrupt means that nothing is in flight. -/
theorem BusInv.bhw_of_entryEnabled {s : State} (hs : BusInv s) (hb : s.bus.bst.busy = true)
    (he : s.entryEnabled .bus = true) : s.bus.bhw = false := by
  obtain ⟨hne, -⟩ := hs.underway hb
  have hif : s.irq.ifBus = true := by
    simp only [State.entryEnabled, Irq.pending, Bool.and_eq_true] at he
    exact he.2
  simpa [hif] using hne

/-- While a payload byte is still to be sent, BPTR and BREM lead to the end of the buffer. -/
theorem BusInv.bptr_add_brem {s : State} (hs : BusInv s)
    (hb : s.bus.bst = .addressSent ∨ s.bus.bst = .dataSending ∧ s.bus.brem ≠ 0) :
    s.bus.brem ≠ 0 ∧ s.bus.brem.toNat ≤ s.bus.blen.toNat ∧
      s.bus.bptr.toNat + s.bus.brem.toNat = s.bus.bbase.toNat + s.bus.blen.toNat := by
  obtain ⟨-, hs⟩ := hs
  rcases hb with hb | ⟨hb, hr⟩ <;> simp only [hb] at hs
  · obtain ⟨-, -, hlen, hptr, hrem⟩ := hs
    rw [hptr, hrem]
    exact ⟨hlen, le_rfl, rfl⟩
  · obtain ⟨-, -, hlt, hptr⟩ := hs
    exact ⟨hr, hlt.le, hptr hr⟩

/-- A completion makes of an operation in flight a pending interrupt (60 R213). -/
theorem BusInv.completeBus {s : State} (hs : BusInv s) (st : Byte) (hw : s.bus.bhw = true) :
    BusInv (completeBus st s) := by
  have hb : s.bus.bst.busy = true := by
    by_contra hb
    simpa [hw] using (hs.quiet (by simpa using hb)).1
  obtain ⟨hp, hs⟩ := hs
  refine ⟨hp, ?_⟩
  have hne : false ≠ true := Bool.false_ne_true
  rcases (BusState.busy_iff _).1 hb with hb | hb | hb <;> simp only [hb, Machine.completeBus] at hs ⊢ <;>
    exact ⟨hne, hs.2⟩

/-- A payload byte that goes out leaves the transaction consistent, one byte further. -/
theorem BusInv.byteSent {s : State} (hs : BusInv s)
    (hb : s.bus.bst = .addressSent ∨ s.bus.bst = .dataSending ∧ s.bus.brem ≠ 0) :
    BusInv (byteSent (s.clearPending .bus)).wake := by
  obtain ⟨-, hle⟩ := hs.underway ((BusState.busy_iff _).2 (.inr (hb.imp_right (·.1))))
  obtain ⟨hr, hlen, hsum⟩ := hs.bptr_add_brem hb
  have hpos := BitVec.toNat_pos_of_ne_zero hr
  obtain ⟨-, -, -, -, -, -, -, hmem⟩ := hs.1
  refine ⟨hs.1, nofun, hle, ?_, nextPtr_add_brem (hle.trans hmem) hsum hr⟩
  show (s.bus.brem - 1).toNat < s.bus.blen.toNat
  rw [toNat_sub_one hr]
  omega

/-- Every instruction keeps the transaction consistent: SUBMIT, a completion and the bus interrupt are the ones that
write its registers. -/
theorem Effect.busInv {i : Instr} {s t : State} (h : Effect s i t) (hs : BusInv s) : BusInv t := by
  cases h
  case submit hb hl hr =>
    obtain ⟨-, hif⟩ := hs.quiet hb
    have hne : true ≠ s.irq.ifBus := by rw [hif]; nofun
    exact ⟨hs.1, hne, hr, hl, rfl, rfl⟩
  case busDone st hw => exact hs.completeBus st hw
  case addressEntry he hb =>
    obtain ⟨hp, hs⟩ := hs
    simp only [hb] at hs
    exact ⟨hp, nofun, hs.2⟩
  case errorEntry he hb => exact ⟨hs.1, hs.bhw_of_entryEnabled hb he, rfl⟩
  case byteEntry hb _ => exact hs.byteSent hb
  case stopEntry => exact ⟨hs.1, rfl, rfl⟩
  case quietEntry he hb => simp [hs.entry_not_enabled hb] at he
  all_goals exact hs

/-- Boot does too: it writes neither the bus registers nor the pending flags. -/
theorem busInv_bootStep {s : State} (hs : BusInv s) : BusInv s.bootStep := by
  unfold State.bootStep
  split <;> exact hs

/-! ## Who writes the bus registers (41 R140, R142) -/

/-- SUBMIT, a completion of the operation in flight, and an enabled bus interrupt; nothing else. -/
theorem Effect.bus_eq {i : Instr} {s t : State} (h : Effect s i t) :
    t.bus = s.bus ∨ (∃ addr len base, i = .submit addr len base) ∨ (∃ st, i = .evBus st ∧ s.bus.bhw = true) ∨
      (i = .intBus ∧ s.entryEnabled .bus = true) := by
  cases h
  case submit => exact .inr (.inl ⟨_, _, _, rfl⟩)
  case busDone hw => exact .inr (.inr (.inl ⟨_, rfl, hw⟩))
  case addressEntry he _ | errorEntry he _ | byteEntry he _ _ | stopEntry he _ _ | quietEntry he _ =>
    exact .inr (.inr (.inr ⟨rfl, he⟩))
  all_goals exact .inl rfl

/-- A move to Error latches the status. -/
theorem Effect.berr_of_error {i : Instr} {s t : State} (h : Effect s i t) (hs : s.bus.bst ≠ .error)
    (ht : t.bus.bst = .error) : t.bus.berr = s.bus.bstat := by
  cases h
  case errorEntry => rfl
  case submit | addressEntry | byteEntry | stopEntry => cases ht
  all_goals exact absurd ht hs

/-- BERR is written by a move from a busy state to Error only. -/
theorem Effect.berr_eq {i : Instr} {s t : State} (h : Effect s i t) :
    t.bus.berr = s.bus.berr ∨ (s.bus.bst.busy = true ∧ t.bus.bst = .error) := by
  cases h
  case errorEntry _ hb => exact .inr ⟨hb, rfl⟩
  all_goals exact .inl rfl

/-- From Error only SUBMIT moves on or uses the bus. -/
theorem Effect.silent_of_error {i : Instr} {s t : State} (h : Effect s i t) (hs : s.bus.bst = .error)
    (hi : ∀ addr len base, i ≠ .submit addr len base) : t.bus.btrace = s.bus.btrace ∧ t.bus.bst = .error := by
  cases h
  case submit => exact absurd rfl (hi _ _ _)
  case addressEntry hb | stopEntry hb _ => simp [hs] at hb
  case errorEntry => exact ⟨rfl, rfl⟩
  case byteEntry hb _ => simp [hs] at hb
  all_goals exact ⟨rfl, hs⟩

/-! ## SUBMIT and AWAIT, case by case (41 R131 to R133) -/

section
variable {s : State} {addr : BitVec 7} {len base : Half}

/-- SUBMIT while a transaction is under way. -/
theorem exec_submit_of_busy (hb : s.bus.bst.busy = true) :
    exec (.submit addr len base) s = .next (s.raise .busBusy) := by
  simp [exec, execSubmit, hb]

/-- SUBMIT of an empty buffer. -/
theorem exec_submit_of_empty (hb : s.bus.bst.busy = false) (hl : len = 0) :
    exec (.submit addr len base) s = .next (s.raise .busLen0) := by
  simp [exec, execSubmit, hb, hl]

/-- SUBMIT of a buffer that ends outside data memory. -/
theorem exec_submit_of_outside (hb : s.bus.bst.busy = false) (hl : len ≠ 0)
    (hr : s.params.memSize < base.toNat + len.toNat) :
    exec (.submit addr len base) s = .next (s.raise .memRange) := by
  simp only [exec, execSubmit, hb, Bool.false_eq_true, if_false, if_neg hl, if_pos hr]

/-- SUBMIT that passes its checks. -/
theorem exec_submit (hb : s.bus.bst.busy = false) (hl : len ≠ 0) (hr : base.toNat + len.toNat ≤ s.params.memSize) :
    exec (.submit addr len base) s = .next ((armTransaction s addr len base).advance 2) := by
  simp only [exec, execSubmit, hb, Bool.false_eq_true, if_false, if_neg hl, if_neg (Nat.not_lt.2 hr)]

end

/-- AWAIT at Stopped. -/
theorem exec_await_of_stopped {s : State} (hb : s.bus.bst = .stopped) :
    exec .await s = .next { s with res := { s.res with rsucc := true, rerr := 0 } }.finishWait := by
  simp [exec, execAwait, awaitCheck, hb]

/-- AWAIT in any other state. -/
theorem exec_await_of_not_stopped {s : State} (hb : s.bus.bst ≠ .stopped) :
    exec .await s = .next { s with tph := .preSleep .awaitCheck } := by
  simp [exec, execAwait, awaitCheck, hb, State.setPhase]

/-! ## The bus interrupt, case by case (41 R134 to R138) -/

/-- The status of R130's table that lets the transaction go on from a state. -/
def StatusExpected (p : Params) (st : Byte) : BusState → Prop
  | .starting => st = p.stStart ∨ st = p.stRepStart
  | .addressSent => st = p.stSlawAck
  | .dataSending => st = p.stDataAck
  | .idle | .stopped | .error => False

/-- The entry is enabled with its three bits set (60 R204). -/
theorem entryEnabled_bus {s : State} (hg : s.irq.gie = true) (hi : s.irq.ieBus = true) (hf : s.irq.ifBus = true) :
    s.entryEnabled .bus = true := by
  simp [State.entryEnabled, Irq.enable, Irq.pending, hg, hi, hf]

/-- The handler sends a byte in AddressSent, and in DataSending while one remains, when the last was acknowledged. -/
theorem busHandler_eq_sendByte {s : State}
    (hb : s.bus.bst = .addressSent ∨ s.bus.bst = .dataSending ∧ s.bus.brem ≠ 0)
    (hst : StatusExpected s.params s.bus.bstat s.bus.bst) :
    busHandler (s.clearPending .bus) = sendByte (s.clearPending .bus) := by
  rcases hb with hb | ⟨hb, hr⟩ <;> simp only [hb, StatusExpected] at hst
  · simp [busHandler, hb, hst]
  · simp only [busHandler, State.clearPending_bus, State.clearPending_params, hb, hst, if_true]
    exact if_pos hr

section
variable {s : State} (he : s.entryEnabled .bus = true)
include he

/-- The bus interrupt runs the handler and wakes the thread. -/
theorem exec_intBus {t : State} (h : busHandler (s.clearPending .bus) = .next t) : exec .intBus s = .next t.wake :=
  (s.enter_next_iff _ _ _).2 ⟨he, t, h, rfl⟩

/-- Starting, the start acknowledged. -/
theorem exec_intBus_address (hb : s.bus.bst = .starting) (hst : StatusExpected s.params s.bus.bstat s.bus.bst) :
    exec .intBus s = .next (sendAddress (s.clearPending .bus)).wake := by
  simp only [hb, StatusExpected] at hst
  exact exec_intBus he (by simp [busHandler, hb, hst])

/-- Any busy state, any other status. -/
theorem exec_intBus_error (hb : s.bus.bst.busy = true) (hst : ¬ StatusExpected s.params s.bus.bstat s.bus.bst) :
    exec .intBus s = .next (busError (s.clearPending .bus)).wake := by
  refine exec_intBus he ?_
  rcases (BusState.busy_iff _).1 hb with hb | hb | hb <;> simp only [hb, StatusExpected] at hst <;>
    simp [busHandler, hb, hst]

/-- The next payload byte, in data memory. -/
theorem exec_intBus_byte (hb : s.bus.bst = .addressSent ∨ s.bus.bst = .dataSending ∧ s.bus.brem ≠ 0)
    (hst : StatusExpected s.params s.bus.bstat s.bus.bst) (hp : s.bus.bptr.toNat < s.params.memSize) :
    exec .intBus s = .next (byteSent (s.clearPending .bus)).wake := by
  refine exec_intBus he ((busHandler_eq_sendByte hb hst).trans ?_)
  rcases sendByte_cases (s.clearPending .bus) with ⟨-, h⟩ | ⟨hge, -⟩
  · exact h
  · exact absurd hp (Nat.not_lt.2 hge)

/-- The next payload byte, outside it. -/
theorem exec_intBus_outside (hb : s.bus.bst = .addressSent ∨ s.bus.bst = .dataSending ∧ s.bus.brem ≠ 0)
    (hst : StatusExpected s.params s.bus.bstat s.bus.bst) (hp : s.params.memSize ≤ s.bus.bptr.toNat) :
    exec .intBus s = .fault (.noSuchByte s.bus.bptr.toNat) := by
  refine (s.enter_fault_iff _ _ _).2 ⟨he, (busHandler_eq_sendByte hb hst).trans ?_⟩
  rcases sendByte_cases (s.clearPending .bus) with ⟨hlt, -⟩ | ⟨-, h⟩
  · exact absurd hlt (Nat.not_lt.2 hp)
  · exact h

/-- No byte remains. -/
theorem exec_intBus_stop (hb : s.bus.bst = .dataSending) (hst : StatusExpected s.params s.bus.bstat s.bus.bst)
    (hr : s.bus.brem = 0) : exec .intBus s = .next (sendStop (s.clearPending .bus)).wake := by
  simp only [hb, StatusExpected] at hst
  exact exec_intBus he (by simp [busHandler, hb, hr, hst])

/-- Outside a transaction. -/
theorem exec_intBus_quiet (hb : s.bus.bst.busy = false) : exec .intBus s = .next (s.clearPending .bus).wake := by
  refine exec_intBus he ?_
  rcases (BusState.not_busy_iff _).1 hb with hb | hb | hb <;> simp [busHandler, hb]

end

/-! ## Frames -/

/-- An instruction writes only the registers of a list, if those that its rules name outside the list hold what they
held. -/
theorem onlyWrites_of_exec {i : Instr} {s t : State} {regs : List RegName} (h : exec i s = .next t)
    (hregs : ∀ r, writesRegister i r = true → r ∉ regs → t.value r = s.value r) (ha : ArgumentsKept s t) :
    OnlyWrites regs s t := by
  refine ⟨fun r hr => ?_, ha⟩
  cases hw : writesRegister i r
  · exact (exec_effect h).value_eq hw
  · exact hregs r hw hr

/-- The registers SUBMIT writes but for FAULT (41 R131). -/
theorem mem_of_writesRegister_submit {addr : BitVec 7} {len base : Half} (r : RegName)
    (hw : writesRegister (.submit addr len base) r = true) (hf : r ≠ .fault) :
    r ∈ [.baddr, .bbase, .blen, .bptr, .brem, .bst, .bhw] := by
  cases r
  case fault => exact absurd rfl hf
  case baddr | bbase | blen | bptr | brem | bst | bhw => simp
  all_goals cases hw

/-- The registers AWAIT writes (41 R133). -/
theorem mem_of_writesRegister_await (r : RegName) (hw : writesRegister .await r = true) : r ∈ [.rsucc, .rerr] := by
  cases r
  case rsucc | rerr => simp
  all_goals cases hw

/-- The registers the bus interrupt writes (41 R134 to R138, 60 R205). -/
theorem mem_of_writesRegister_intBus (r : RegName) (hw : writesRegister .intBus r = true) :
    r ∈ [.bst, .bptr, .brem, .berr, .bhw, .ifBus] := by
  cases r
  case bst | bptr | brem | berr | bhw | ifBus => simp
  all_goals cases hw

/-- Of these a bus interrupt writes those of a list, if the others hold what they held. -/
theorem onlyWrites_of_intBus {s t : State} {regs : List RegName} (h : exec .intBus s = .next t)
    (hregs : ∀ r ∈ [.bst, .bptr, .brem, .berr, .bhw, .ifBus], r ∉ regs → t.value r = s.value r)
    (ha : ArgumentsKept s t) : OnlyWrites regs s t :=
  onlyWrites_of_exec h (fun r hw => hregs r (mem_of_writesRegister_intBus r hw)) ha

/-! ## What the statements say of a bus interrupt -/

/-- An unexpected status, in any busy state (41 R135 to R137, R140). -/
theorem busEntry_error {s : State} (he : s.entryEnabled .bus = true) (hb : s.bus.bst.busy = true)
    (hst : ¬ StatusExpected s.params s.bus.bstat s.bus.bst) :
    ∃ t, exec .intBus s = .next t ∧ t.value .ifBus = 0 ∧ t.pc = s.pc ∧ Woken s t ∧ MemoryKept s t ∧
      t.value .bst = 5 ∧ t.value .berr = s.value .bstat ∧ t.bus.btrace = s.bus.btrace ∧
      OnlyWrites [.bst, .berr, .ifBus] s t := by
  have h := exec_intBus_error he hb hst
  refine ⟨_, h, rfl, rfl, woken_of_tph s _ rfl, fun _ => rfl, rfl, rfl, rfl,
    onlyWrites_of_intBus h ?_ ⟨rfl, rfl, rfl, rfl⟩⟩
  simp [State.value, busError]

/-- The next payload byte, from data memory (41 R136, R137, R141). -/
theorem busEntry_byte {s : State} (he : s.entryEnabled .bus = true)
    (hb : s.bus.bst = .addressSent ∨ s.bus.bst = .dataSending ∧ s.bus.brem ≠ 0)
    (hst : StatusExpected s.params s.bus.bstat s.bus.bst) (hp : s.bus.bptr.toNat < s.params.memSize) :
    ∃ t, exec .intBus s = .next t ∧ t.value .ifBus = 0 ∧ t.pc = s.pc ∧ Woken s t ∧ MemoryKept s t ∧
      t.value .bst = 3 ∧ t.value .bhw = 1 ∧
      t.bus.btrace = s.bus.btrace ++ [.write (s.mem.read s.bus.bptr.toNat)] ∧
      (s.bus.bptr ≠ 0xFFFF → t.value .bptr = s.value .bptr + 1) ∧
      (s.bus.brem ≠ 0 → t.value .brem = s.value .brem - 1) ∧
      OnlyWrites [.bst, .bhw, .bptr, .brem, .ifBus] s t := by
  have h := exec_intBus_byte he hb hst hp
  refine ⟨_, h, rfl, rfl, woken_of_tph s _ rfl, fun _ => rfl, rfl, rfl, rfl, toNat_nextPtr (s := s), toNat_sub_one,
    onlyWrites_of_intBus h ?_ ⟨rfl, rfl, rfl, rfl⟩⟩
  simp [State.value, byteSent]

/-- A register that holds what it held need not stand among those written. -/
theorem OnlyWrites.of_cons {r : RegName} {regs : List RegName} {s t : State} (h : OnlyWrites (r :: regs) s t)
    (hr : t.value r = s.value r) : OnlyWrites regs s t := by
  refine ⟨fun r' hr' => ?_, h.2⟩
  by_cases he : r' = r
  · rw [he, hr]
  · exact h.1 r' (by simp [he, hr'])

/-- The address byte is the address shifted left, its lowest bit 0 (41 R139). -/
theorem toNat_addrByte (a : BitVec 7) : (addrByte a).toNat = 2 * a.toNat := by
  have h : (addrByte a).toNat = a.toNat <<< 1 ||| (0#1).toNat := BitVec.toNat_append a 0#1
  simp only [h, BitVec.toNat_ofNat, Nat.zero_mod, Nat.or_zero, Nat.shiftLeft_eq, Nat.pow_one, Nat.mul_comm]

/-! ## The run of an acknowledged transaction (41 R142) -/

/-- The bus actions that send n bytes of data memory from address a on. -/
def payload (m : Memory) (a n : Nat) : List BusAction := (List.range n).map fun k => .write (m.read (a + k))

/-- The first of the bytes, then those after it. -/
theorem payload_succ (m : Memory) (a n : Nat) :
    payload m a (n + 1) = .write (m.read a) :: payload m (a + 1) n := by
  simp [payload, List.range_succ_eq_map, Nat.add_comm, Nat.add_left_comm]

/-- A consistent transaction with an operation in flight, and the bus interrupt admitted. -/
structure Underway (s : State) : Prop where
  inv : BusInv s
  bhw : s.bus.bhw = true
  gie : s.irq.gie = true
  ieBus : s.irq.ieBus = true

/-- The transaction of s has ended in t, with these actions on the bus. -/
structure Finished (s : State) (acts : List BusAction) (t : State) : Prop where
  btrace : t.bus.btrace = s.bus.btrace ++ acts
  bst : t.bus.bst = .stopped
  brem : t.bus.brem = 0
  bhw : t.bus.bhw = false
  berr : t.bus.berr = s.bus.berr
  mem : t.mem = s.mem

/-- What ends a transaction from u ends it from s, where u is s with one more action on the bus. -/
theorem Finished.cons {s u t : State} {act : BusAction} {acts : List BusAction} (h : Finished u acts t)
    (htrace : u.bus.btrace = s.bus.btrace ++ [act]) (hberr : u.bus.berr = s.bus.berr) (hmem : u.mem = s.mem) :
    Finished s (act :: acts) t :=
  { h with
    btrace := by rw [h.btrace, htrace, List.append_assoc, List.singleton_append]
    berr := h.berr.trans hberr
    mem := h.mem.trans hmem }

/-- One round: the operation in flight completes and the interrupt is taken. -/
theorem busRounds_cons {s u : State} {st : Byte} (sts : List Byte) (hw : s.bus.bhw = true)
    (h : exec .intBus (completeBus st s) = .next u) : busRounds (st :: sts) s = busRounds sts u := by
  have hst : exec (.evBus st) s = .next (completeBus st s) := (execEvBus_next_iff st s _).2 ⟨hw, rfl⟩
  simp [busRounds, busRound, hst, h]

/-- After a completion the bus interrupt is enabled, if it is admitted. -/
theorem entryEnabled_completeBus {s : State} (hg : s.irq.gie = true) (hi : s.irq.ieBus = true) (st : Byte) :
    (completeBus st s).entryEnabled .bus = true :=
  entryEnabled_bus hg hi rfl

/-- The state after a round that sends a payload byte. -/
def afterByte (st : Byte) (s : State) : State := (byteSent ((completeBus st s).clearPending .bus)).wake

/-- A round with the expected status that sends a payload byte keeps the transaction under way. -/
theorem Underway.afterByte {s : State} {st : Byte} (hs : Underway s)
    (hb : s.bus.bst = .addressSent ∨ s.bus.bst = .dataSending ∧ s.bus.brem ≠ 0)
    (hst : StatusExpected s.params st s.bus.bst) :
    exec .intBus (completeBus st s) = .next (afterByte st s) ∧ Underway (afterByte st s) := by
  have hinv := hs.inv.completeBus st hs.bhw
  have h := exec_intBus_byte (entryEnabled_completeBus hs.gie hs.ieBus st) hb hst (hinv.bptr_lt_memSize hb)
  exact ⟨h, hinv.byteSent hb, rfl, hs.gie, hs.ieBus⟩

/-- From DataSending, with n bytes to go, n + 1 acknowledged rounds send them and stop: by induction on n, the
invariant of R141 giving the address of the next byte. -/
theorem busRounds_dataSending (n : Nat) : ∀ s : State, Underway s → s.bus.bst = .dataSending →
    s.bus.brem.toNat = n →
    ∃ t, busRounds (List.replicate (n + 1) s.params.stDataAck) s = .next t ∧
      Finished s (payload s.mem (s.bus.bbase.toNat + s.bus.blen.toNat - n) n ++ [.stop]) t := by
  induction n with
  | zero =>
    intro s hs hb hn
    have hr : s.bus.brem = 0 := BitVec.eq_of_toNat_eq hn
    have hst : StatusExpected s.params s.params.stDataAck s.bus.bst := by rw [hb]; rfl
    have h := exec_intBus_stop (entryEnabled_completeBus hs.gie hs.ieBus _) hb hst hr
    exact ⟨_, busRounds_cons [] hs.bhw h, ⟨rfl, rfl, hr, rfl, rfl, rfl⟩⟩
  | succ n ih =>
    intro s hs hb hn
    have hr : s.bus.brem ≠ 0 := fun h0 => by simp [h0] at hn
    have hst : StatusExpected s.params s.params.stDataAck s.bus.bst := by rw [hb]; rfl
    obtain ⟨h, hu⟩ := hs.afterByte (.inr ⟨hb, hr⟩) hst
    obtain ⟨-, hlen, hsum⟩ := hs.inv.bptr_add_brem (.inr ⟨hb, hr⟩)
    have hrem : (s.bus.brem - 1).toNat = n := by rw [toNat_sub_one hr]; omega
    obtain ⟨t, ht, hfin⟩ := ih _ hu rfl hrem
    have hptr : s.bus.bbase.toNat + s.bus.blen.toNat - (n + 1) = s.bus.bptr.toNat := by omega
    have hnext : s.bus.bbase.toNat + s.bus.blen.toNat - n = s.bus.bptr.toNat + 1 := by omega
    refine ⟨t, (busRounds_cons _ hs.bhw h).trans ht, ?_⟩
    rw [hptr, payload_succ, ← hnext]
    exact hfin.cons rfl rfl rfl

/-- From AddressSent, an acknowledged address and as many acknowledged rounds as there are bytes send the buffer and
stop. -/
theorem busRounds_addressSent {s : State} (hs : Underway s) (hb : s.bus.bst = .addressSent) :
    ∃ t, busRounds (s.params.stSlawAck :: List.replicate s.bus.blen.toNat s.params.stDataAck) s = .next t ∧
      Finished s (payload s.mem s.bus.bbase.toNat s.bus.blen.toNat ++ [.stop]) t := by
  have hst : StatusExpected s.params s.params.stSlawAck s.bus.bst := by rw [hb]; rfl
  obtain ⟨h, hu⟩ := hs.afterByte (.inl hb) hst
  obtain ⟨-, -, hlen, hptr, hrem⟩ : _ ∧ _ ∧ s.bus.blen ≠ 0 ∧ s.bus.bptr = s.bus.bbase ∧ s.bus.brem = s.bus.blen := by
    simpa only [hb] using hs.inv.2
  obtain ⟨n, hn⟩ := Nat.exists_eq_add_one.2 (BitVec.toNat_pos_of_ne_zero hlen)
  have hleft : (s.bus.brem - 1).toNat = n := by rw [hrem, toNat_sub_one hlen]; omega
  obtain ⟨t, ht, hfin⟩ := busRounds_dataSending n _ hu rfl hleft
  have hnext : s.bus.bbase.toNat + s.bus.blen.toNat - n = s.bus.bptr.toNat + 1 := by rw [hptr]; omega
  refine ⟨t, ?_, ?_⟩
  · rw [hn]
    exact (busRounds_cons _ hs.bhw h).trans ht
  · rw [hn, payload_succ, ← hptr, ← hnext]
    exact hfin.cons rfl rfl rfl

/-- From Starting, an acknowledged start sends the address byte first. The invariant is asked of the state after the
start's completion: SUBMIT, outside the reachable states, may leave an older interrupt pending, which the completion
merges with its own. -/
theorem busRounds_starting {s : State} {st : Byte} (hw : s.bus.bhw = true) (hg : s.irq.gie = true)
    (hi : s.irq.ieBus = true) (hb : s.bus.bst = .starting) (hinv : BusInv (completeBus st s))
    (hst : StatusExpected s.params st s.bus.bst) :
    ∃ t, busRounds (st :: s.params.stSlawAck :: List.replicate s.bus.blen.toNat s.params.stDataAck) s = .next t ∧
      Finished s (.write (addrByte s.bus.baddr) :: (payload s.mem s.bus.bbase.toNat s.bus.blen.toNat ++ [.stop])) t := by
  have he := entryEnabled_completeBus hg hi st
  have hunder : Underway (sendAddress ((completeBus st s).clearPending .bus)).wake :=
    ⟨(Effect.addressEntry he hb).busInv hinv, rfl, hg, hi⟩
  obtain ⟨t, ht, hfin⟩ := busRounds_addressSent hunder rfl
  exact ⟨t, (busRounds_cons _ hw (exec_intBus_address he hb hst)).trans ht, hfin.cons rfl rfl rfl⟩

end Sys2Proof.Machine

/-! ## The obligations -/

section
open Sys2Proof Sys2Proof.Machine

/-- Settles O56: instruction by instruction; boot and the thread's own moves write none of the registers. -/
theorem stepKeepsTheTransactionConsistent : Obligations.StepKeepsTheTransactionConsistent := fun s t =>
  step_keeps BusInv (hrun := fun _ _ _ hs => hs) (hboot := fun _ hs _ => busInv_bootStep hs)
    (hexec := fun _ _ _ hs _ hi _ => (exec_effect hi).busInv hs) (hrefuse := fun _ hs _ => hs)
    (hfinish := fun _ hs _ => hs) (hphase := fun _ _ hs _ _ => hs) s t

/-- Settles O22: the acknowledged address sends the first byte, any other status is an error. -/
theorem busEntryInAddressSent : Obligations.BusEntryInAddressSent := by
  intro s hg hi hf hb
  have he := entryEnabled_bus hg hi hf
  have hexp : StatusExpected s.params s.bus.bstat s.bus.bst ↔ s.bus.bstat = s.params.stSlawAck := by rw [hb]; rfl
  exact ⟨fun hst => busEntry_byte he (.inl hb) (hexp.2 hst), fun hst => exec_intBus_outside he (.inl hb) (hexp.2 hst),
    fun hst => busEntry_error he (by rw [hb]; rfl) (mt hexp.1 hst)⟩

/-- Settles O23: an acknowledged byte sends the next one or the stop, any other status is an error. -/
theorem busEntryInDataSending : Obligations.BusEntryInDataSending := by
  intro s hg hi hf hb
  have he := entryEnabled_bus hg hi hf
  have hexp : StatusExpected s.params s.bus.bstat s.bus.bst ↔ s.bus.bstat = s.params.stDataAck := by rw [hb]; rfl
  refine ⟨fun hst hr hp => ?byte, fun hst hr => exec_intBus_outside he (.inr ⟨hb, hr⟩) (hexp.2 hst),
    fun hst hr => ?stop, fun hst => busEntry_error he (by rw [hb]; rfl) (mt hexp.1 hst)⟩
  case byte =>
    obtain ⟨t, h, hif, hpc, hwoken, hmem, hbst, hbhw, htrace, hptr, hrem, hregs⟩ :=
      busEntry_byte he (.inr ⟨hb, hr⟩) (hexp.2 hst) hp
    have hkept : t.value .bst = s.value .bst := hbst.trans (by rw [State.value, hb]; rfl)
    exact ⟨t, h, hif, hpc, hwoken, hmem, hbst, hbhw, htrace, hptr, hrem hr, hregs.of_cons hkept⟩
  case stop =>
    have h := exec_intBus_stop he hb (hexp.2 hst) hr
    refine ⟨_, h, rfl, rfl, woken_of_tph s _ rfl, fun _ => rfl, rfl, rfl, rfl,
      onlyWrites_of_intBus h ?_ ⟨rfl, rfl, rfl, rfl⟩⟩
    simp [State.value, sendStop]

/-- Settles O25: of the effects only the bus interrupt's error writes BERR, and it alone moves BST to Error. -/
theorem errorLatchesTheStatus : Obligations.ErrorLatchesTheStatus := by
  intro i s t h
  have heff := exec_effect h
  refine ⟨heff.berr_of_error, fun hne => ?_, heff.silent_of_error⟩
  rcases heff.berr_eq with heq | ⟨hb, ht⟩
  · exact absurd heq hne
  · exact ⟨fun hs => by simp [hs, BusState.busy] at hb, ht⟩

/-- Settles O27: SUBMIT's START, the address byte, and then the rounds that send the buffer. -/
theorem acknowledgedTransactionSendsThePayload : Obligations.AcknowledgedTransactionSendsThePayload := by
  intro s addr len base st0 hp hg hi hb hl hr hst
  have hsubmit := exec_submit (addr := addr) ((BusState.not_busy_iff _).2 hb) hl hr
  obtain ⟨t, ht, hfin⟩ := busRounds_starting (s := (armTransaction s addr len base).advance 2) rfl hg hi rfl
    (st := st0) ⟨hp, nofun, hr, hl, rfl, rfl⟩ hst
  have hall : Finished s (.start :: .write (addrByte addr) :: (payload s.mem base.toNat len.toNat ++ [.stop])) t :=
    hfin.cons rfl rfl rfl
  refine ⟨_, t, hsubmit, ht, ?_, hall.bst, hall.brem, hall.bhw, hall.berr, fun a => by rw [hall.mem]⟩
  rw [hall.btrace]
  simp [payload]

/-- Settles O28: with nothing in flight and nothing pending only a SUBMIT writes the bus registers. -/
theorem afterErrorTheBusIsSilent : Obligations.AfterErrorTheBusIsSilent := by
  intro s hs herr
  have hb : s.bus.bst.busy = false := by rw [herr]; rfl
  obtain ⟨hw, -⟩ := hs.quiet hb
  have he := hs.entry_not_enabled hb
  refine ⟨fun st => ?_, exec_entry_of_not_enabled (q := .bus) he, exec_await_of_not_stopped (by simp [herr]), ?_⟩
  · simp [exec, execEvBus, hw]
  · intro i t h hi
    rcases (exec_effect h).bus_eq with heq | ⟨_, _, _, hsub⟩ | ⟨_, -, hw'⟩ | ⟨-, he'⟩
    · exact heq
    · exact absurd hsub (hi _ _ _)
    · simp [hw] at hw'
    · simp [he] at he'

/-- Settles O19: the checks in their order, and the armed transaction. -/
theorem submitChecksThenStarts : Obligations.SubmitChecksThenStarts := by
  intro s addr len base busy
  have hidle : ¬ busy → s.bus.bst.busy = false := fun hb => by simpa using mt (BusState.busy_iff _).1 hb
  refine ⟨fun hb => ⟨_, exec_submit_of_busy ((BusState.busy_iff _).2 hb), faultedWith_raise s .busBusy⟩,
    fun hb hl => ⟨_, exec_submit_of_empty (hidle hb) hl, faultedWith_raise s .busLen0⟩,
    fun hb hl hr => ⟨_, exec_submit_of_outside (hidle hb) hl hr, faultedWith_raise s .memRange⟩,
    fun hb hl hr => ?starts, rfl, rfl⟩
  case starts =>
    have h := exec_submit (addr := addr) (hidle hb) hl hr
    refine ⟨_, h, rfl, rfl, rfl, rfl, rfl, rfl, rfl, rfl, rfl, rfl, fun _ => rfl,
      onlyWrites_of_exec h (fun r hw hout => ?_) ⟨rfl, rfl, rfl, rfl⟩⟩
    by_cases hf : r = .fault
    · rw [hf]; rfl
    · exact absurd (mem_of_writesRegister_submit r hw hf) hout

/-- Settles O20: the check, whose two outcomes are the same at the fetch and in phase AWAIT_CHECK. -/
theorem awaitCompletesOnlyAtStopped : Obligations.AwaitCompletesOnlyAtStopped := by
  intro s
  refine ⟨fun hb => ?stopped, exec_await_of_not_stopped, fun hp => by simp [threadStep, hp, exec, execAwait], by decide⟩
  case stopped =>
    have h := exec_await_of_stopped hb
    exact ⟨_, h, rfl, rfl, rfl, rfl,
      quietStep_of_exec h (fun r hw _ => mem_of_writesRegister_await r hw) rfl ⟨rfl, rfl, rfl, rfl⟩ rfl rfl⟩

/-- Settles O21: the acknowledged start sends the address byte, any other status is an error. -/
theorem busEntryInStarting : Obligations.BusEntryInStarting := by
  intro s hg hi hf hb
  have he := entryEnabled_bus hg hi hf
  have hexp : StatusExpected s.params s.bus.bstat s.bus.bst ↔
      s.bus.bstat = s.params.stStart ∨ s.bus.bstat = s.params.stRepStart := by rw [hb]; rfl
  refine ⟨toNat_addrByte, ?_⟩
  by_cases hst : StatusExpected s.params s.bus.bstat s.bus.bst
  · have h := exec_intBus_address he hb hst
    refine ⟨_, h, rfl, rfl, woken_of_tph s _ rfl, fun _ => rfl, fun _ => ⟨rfl, rfl, rfl,
      onlyWrites_of_intBus h ?_ ⟨rfl, rfl, rfl, rfl⟩⟩, fun h1 h2 => absurd (hexp.1 hst) (by simp [h1, h2])⟩
    simp [State.value, sendAddress]
  · obtain ⟨t, h, hif, hpc, hwoken, hmem, herror⟩ := busEntry_error he (by rw [hb]; rfl) hst
    exact ⟨t, h, hif, hpc, hwoken, hmem, fun hs => absurd (hexp.2 hs) hst, fun _ _ => herror⟩

/-- Settles O24: the handler leaves the state as it is. -/
theorem busEntryInTerminalStates : Obligations.BusEntryInTerminalStates := by
  intro s hg hi hf hb
  have h := exec_intBus_quiet (entryEnabled_bus hg hi hf) ((BusState.not_busy_iff _).2 hb)
  refine ⟨_, h, rfl, rfl, woken_of_tph s _ rfl, onlyWrites_of_intBus h ?_ ⟨rfl, rfl, rfl, rfl⟩, fun _ => rfl, rfl⟩
  simp [State.value]

end
end

section
/-! PROOFS. The Clock / Scheduler (42): the fine window in natural numbers (R166, R168), and what the tick entry, NOW,
WAITS, WAITUS and their checks answer, case by case (R160 to R169). -/

namespace Sys2Proof.Machine

/-! ## The fine window (42 R166, R168) -/

/-- A difference of two counts of a timer of period p, modulo p: the difference itself, or what it is across the
wrap. -/
theorem sub_emod_period {p c w : Nat} (hc : c < p) (hw : w < p) :
    ((c : Int) - (w : Int)) % (p : Int) = if w ≤ c then (c : Int) - w else (c : Int) + p - w := by
  split
  · exact Int.emod_eq_of_lt (by omega) (by omega)
  · rw [← Int.add_emod_right, Int.emod_eq_of_lt (by omega) (by omega)]
    omega

/-- TCNT lies in [WLO, WLO + GUARD) modulo P: at or after WLO in the same period, or in the next one. -/
theorem State.inFineWindow_iff {s : State} (hc : s.clk.tcnt.toNat < s.params.period)
    (hw : s.clk.wlo.toNat < s.params.period) :
    s.inFineWindow = true ↔
      (s.clk.wlo.toNat ≤ s.clk.tcnt.toNat ∧ s.clk.tcnt.toNat < s.clk.wlo.toNat + s.params.guardBand) ∨
        (s.clk.tcnt.toNat < s.clk.wlo.toNat ∧
          s.clk.tcnt.toNat + s.params.period < s.clk.wlo.toNat + s.params.guardBand) := by
  rw [State.inFineWindow, decide_eq_true_iff, sub_emod_period hc hw]
  split <;> omega

/-- WLO after the fetch step of WAITUS is the sum modulo P, which fits its 16 bits (42 R166). -/
theorem toNat_fineLow {s : State} (hp : s.params.Legal) (n : BitVec 24) :
    (s.fineLow n).toNat = (s.clk.tcnt.toNat + s.fineCounts n) % s.params.period := by
  obtain ⟨h2, h65535, -⟩ := hp
  have hm := Nat.mod_lt (s.clk.tcnt.toNat + s.fineCounts n) (show 0 < s.params.period by omega)
  rw [State.fineLow, BitVec.toNat_ofNat, Nat.mod_eq_of_lt (by omega)]

/-- The state after the fetch step of a WAITUS n in range (42 R166). -/
def openFineWindow (n : BitVec 24) (s : State) : State :=
  { s with clk := { s.clk with wlo := s.fineLow n } }.setPhase .waitusPoll

@[simp] theorem openFineWindow_params (n : BitVec 24) (s : State) : (openFineWindow n s).params = s.params := rfl
@[simp] theorem openFineWindow_tcnt (n : BitVec 24) (s : State) : (openFineWindow n s).clk.tcnt = s.clk.tcnt := rfl
@[simp] theorem openFineWindow_wlo (n : BitVec 24) (s : State) : (openFineWindow n s).clk.wlo = s.fineLow n := rfl

/-- A window that opens at least one count after the TCNT of the fetch, and ends within the period, does not contain
that TCNT: neither before the wrap nor across it (42 R169). -/
theorem openFineWindow_not_inFineWindow {s : State} {n : BitVec 24} (hp : s.params.Legal)
    (hc : s.clk.tcnt.toNat < s.params.period) (h0 : 0 < s.fineCounts n)
    (hr : s.fineCounts n + s.params.guardBand ≤ s.params.period) :
    (openFineWindow n s).inFineWindow = false := by
  have hlow := toNat_fineLow hp n
  have hw := fineLow_lt hp n
  rw [Bool.eq_false_iff, ne_eq, State.inFineWindow_iff (s := openFineWindow n s) hc hw]
  simp only [openFineWindow_params, openFineWindow_tcnt, openFineWindow_wlo]
  rcases Nat.lt_or_ge (s.clk.tcnt.toNat + s.fineCounts n) s.params.period with hsum | hsum
  · rw [Nat.mod_eq_of_lt hsum] at hlow
    omega
  · rw [Nat.mod_eq_sub_mod hsum, Nat.mod_eq_of_lt (by omega)] at hlow
    omega

/-! ## The instructions and the checks, case by case -/

/-- The entry is enabled with its three bits set (60 R204). -/
theorem entryEnabled_tick {s : State} (hg : s.irq.gie = true) (hi : s.irq.ieTick = true) (hf : s.irq.ifTick = true) :
    s.entryEnabled .tick = true := by
  simp [State.entryEnabled, Irq.enable, Irq.pending, hg, hi, hf]

/-- An enabled tick entry (42 R160, 60 R205). -/
theorem exec_intTick {s : State} (h : s.entryEnabled .tick = true) :
    exec .intTick s = .next { s with
      clk := { s.clk with ticks := (s.clk.ticks + 1) % 2 ^ s.params.tickBits }
      irq := s.irq.clear .tick
      tph := s.tph.woken } :=
  (execIntTick_next_iff s _).2 ⟨h, rfl⟩

/-- WAITS 0 does not wait (42 R162). -/
theorem exec_waits_zero (s : State) : exec (.waits 0) s = .next (s.advance 1) := rfl

/-- WAITS of at least one second (42 R163). -/
theorem exec_waits {n : BitVec 24} (hn : n ≠ 0) (s : State) :
    exec (.waits n) s = .next ({ s with clk := { s.clk with wtarget := s.coarseTarget n } }.setPhase .waitsCheck) :=
  congrArg Host.Outcome.next (if_neg hn)

/-- WAITUS past the period (42 R167). -/
theorem exec_waitus_of_outside {s : State} {n : BitVec 24}
    (h : s.params.period < s.fineCounts n + s.params.guardBand) :
    exec (.waitus n) s = .next (s.raise .fineRange) := by
  simp [exec, execWaitus, h]

/-- WAITUS within the period (42 R166). -/
theorem exec_waitus {s : State} {n : BitVec 24} (h : s.fineCounts n + s.params.guardBand ≤ s.params.period) :
    exec (.waitus n) s = .next (openFineWindow n s) := by
  simp [exec, execWaitus, openFineWindow, Nat.not_lt.2 h]

/-- The check of WAITS at its target (42 R164). -/
theorem threadStep_waitsCheck_of_eq {s : State} (hp : s.tph = .waitsCheck) (h : s.clk.ticks = s.clk.wtarget) :
    threadStep s = .next s.finishWait := by
  simp [threadStep, hp, waitsCheck, h]

/-- The check of WAITS anywhere else (42 R164). -/
theorem threadStep_waitsCheck_of_ne {s : State} (hp : s.tph = .waitsCheck) (h : s.clk.ticks ≠ s.clk.wtarget) :
    threadStep s = .next (s.setPhase (.preSleep .waitsCheck)) := by
  simp [threadStep, hp, waitsCheck, h]

/-- The phase the thread is in already. -/
theorem State.setPhase_of_tph {s : State} {p : Phase} (h : s.tph = p) : s.setPhase p = s := by
  subst h
  rfl

/-- The poll of WAITUS inside the window (42 R168). -/
theorem threadStep_waitusPoll_of_inside {s : State} (hp : s.tph = .waitusPoll) (h : s.inFineWindow = true) :
    threadStep s = .next s.finishWait := by
  simp [threadStep, hp, waitusPoll, h]

/-- The poll of WAITUS outside it, which changes nothing (42 R168). -/
theorem threadStep_waitusPoll_of_outside {s : State} (hp : s.tph = .waitusPoll) (h : s.inFineWindow = false) :
    threadStep s = .next s := by
  simp [threadStep, hp, waitusPoll, h, State.setPhase_of_tph hp]

/-! ## Frames -/

/-- The registers the tick entry writes (42 R160, 60 R205). -/
theorem mem_of_writesRegister_intTick (r : RegName) (hw : writesRegister .intTick r = true) :
    r ∈ [.ticks, .ifTick] := by
  cases r
  case ticks | ifTick => simp
  all_goals cases hw

/-- The register NOW writes (42 R161). -/
theorem mem_of_writesRegister_now (r : RegName) (hw : writesRegister .now r = true) : r ∈ [.rnow] := by
  cases r
  case rnow => exact List.mem_singleton_self _
  all_goals cases hw

/-- The register WAITS writes (42 R163). -/
theorem mem_of_writesRegister_waits {n : BitVec 24} (r : RegName) (hw : writesRegister (.waits n) r = true) :
    r ∈ [.wtarget] := by
  cases r
  case wtarget => exact List.mem_singleton_self _
  all_goals cases hw

/-- The register WAITUS writes but for FAULT (42 R166). -/
theorem mem_of_writesRegister_waitus {n : BitVec 24} (r : RegName) (hw : writesRegister (.waitus n) r = true)
    (hf : r ≠ .fault) : r ∈ [.wlo] := by
  cases r
  case fault => exact absurd rfl hf
  case wlo => exact List.mem_singleton_self _
  all_goals cases hw

end Sys2Proof.Machine

/-! ## The obligations -/

section
open Sys2Proof Sys2Proof.Machine

/-- Settles O34: the window as two ranges, and the poll inside and outside it. -/
theorem waitusPollsTheWindow : Obligations.WaitusPollsTheWindow := by
  intro s hp _ hc hw inside
  have hiff : s.inFineWindow = true ↔ inside := State.inFineWindow_iff hc hw
  exact ⟨fun h => threadStep_waitusPoll_of_inside hp (hiff.2 h),
    fun h => threadStep_waitusPoll_of_outside hp (Bool.eq_false_iff.2 (mt hiff.1 h))⟩

/-- Settles O35: the window that the fetch opens does not contain the TCNT of the fetch. -/
theorem fineDelayLastsAtLeastOneCount : Obligations.FineDelayLastsAtLeastOneCount := fun _ _ hp hc h0 hr =>
  ⟨_, exec_waitus hr, threadStep_waitusPoll_of_outside rfl (openFineWindow_not_inFineWindow hp hc h0 hr)⟩

/-- Settles O29: the enabled entry's effect. -/
theorem tickEntryCountsOneTick : Obligations.TickEntryCountsOneTick := by
  intro s hg hi hf
  have h := exec_intTick (entryEnabled_tick hg hi hf)
  exact ⟨_, h, rfl, rfl, rfl, woken_of_tph s _ rfl,
    quietStep_of_exec h (fun r hw _ => mem_of_writesRegister_intTick r hw) rfl ⟨rfl, rfl, rfl, rfl⟩ rfl rfl⟩

/-- Settles O30: RNOW is the one register NOW writes. -/
theorem nowReadsTheTicks : Obligations.NowReadsTheTicks := fun _ =>
  ⟨by decide, _, rfl, rfl, rfl, rfl,
    quietStep_of_exec rfl (fun r hw _ => mem_of_writesRegister_now r hw) rfl ⟨rfl, rfl, rfl, rfl⟩ rfl rfl⟩

/-- Settles O31: no wait for n = 0, else the target, WTARGET being the one register written. -/
theorem waitsSetsTheTarget : Obligations.WaitsSetsTheTarget := by
  intro s n
  refine ⟨fun h0 => h0 ▸ exec_waits_zero s, fun hn => ?waits, by omega, rfl⟩
  case waits =>
    have h := exec_waits hn s
    exact ⟨_, h, rfl, rfl, rfl,
      quietStep_of_exec h (fun r hw _ => mem_of_writesRegister_waits r hw) rfl ⟨rfl, rfl, rfl, rfl⟩ rfl rfl⟩

/-- Settles O32: the two branches of the check. -/
theorem waitsCompletesAtEquality : Obligations.WaitsCompletesAtEquality := fun _ hp =>
  ⟨threadStep_waitsCheck_of_eq hp, threadStep_waitsCheck_of_ne hp⟩

/-- Settles O33: the range fault, else the low end of the window, WLO being the one register written. -/
theorem waitusSetsTheWindow : Obligations.WaitusSetsTheWindow := by
  intro s n hp
  refine ⟨fun hr => ⟨_, exec_waitus_of_outside hr, faultedWith_raise s .fineRange⟩, fun hr => ?opens, rfl⟩
  case opens =>
    have h := exec_waitus hr
    exact ⟨_, h, toNat_fineLow hp n, rfl, rfl,
      quietStep_of_exec h mem_of_writesRegister_waitus rfl ⟨rfl, rfl, rfl, rfl⟩ rfl rfl⟩

end
end

section
/-! PROOFS. The platform primitives and caller commands (43): what END, CSENTER, CSEXIT, SLEEP and STB answer, case by
case (R180 to R185), and the end of a run at END (70 R256). -/

namespace Sys2Proof.Machine

/-! ## END and the end of a run (43 R180, 70 R256) -/

/-- A launched machine whose next action is the thread's steps as the thread does, the run's bookkeeping aside. -/
theorem step_of_nextAction_thread {s : State} (hb : s.boot = .launched) (ha : s.nextAction = .thread) :
    ∃ agenda draws, step s = takeAction .thread { s with agenda := agenda, draws := draws } := by
  cases hag : s.agenda with
  | nil =>
    have hfree : freeChoice s = .thread := by simpa [State.nextAction, hag] using ha
    exact ⟨s.agenda, s.draws + 1, hfree ▸ step_of_agenda_nil hb hag⟩
  | cons a rest =>
    obtain rfl : a = .thread := by simpa [State.nextAction, hag] using ha
    exact ⟨rest, s.draws, step_of_agenda_cons hb hag⟩

/-- The step that performs END. -/
theorem step_of_end {s : State} (hb : s.boot = .launched) (ha : s.nextAction = .thread) (hp : s.tph = .run)
    (hf : s.fetch = .ok .endRun) :
    ∃ agenda draws, step s = .next { s with agenda := agenda, draws := draws, tph := .halted } := by
  obtain ⟨agenda, draws, h⟩ := step_of_nextAction_thread hb ha
  exact ⟨agenda, draws,
    h.trans (takeAction_thread_of_fetch (s := { s with agenda := agenda, draws := draws }) hp hf)⟩

/-- Along a run a halted thread stays halted. -/
theorem IsRunUpTo.halted_of_le {f : Nat → State} {n k m : Nat} (hr : IsRunUpTo f n) (hk : (f k).tph = .halted)
    (hkm : k ≤ m) (hm : m ≤ n) : (f m).tph = .halted := by
  induction m, hkm using Nat.le_induction with
  | base => exact hk
  | succ m _ ih =>
    obtain ⟨hstays, -, -⟩ := phasesAreLeftByTheirOwners _ _ (hr m hm)
    exact hstays (ih (Nat.le_of_succ_le hm))

/-- A run has not ended at or before a state in which the thread is not halted. -/
theorem IsRunUpTo.haltedUnmarked_eq_false {f : Nat → State} {n k : Nat} (hr : IsRunUpTo f n) (hkn : k ≤ n)
    (hn : (f n).tph ≠ .halted) : (f k).haltedUnmarked = false := by
  have hk : (f k).tph ≠ .halted := fun h => hn (hr.halted_of_le h hkn (Nat.le_refl n))
  simp [State.haltedUnmarked, hk]

/-- A run with a successful end is observed there, and only there. -/
theorem SuccessfulEnd.runObserves_iff {f : Nat → State} {n : Nat} (h : SuccessfulEnd f n) (o : Observation) :
    RunObserves f o ↔ o = (f n).observe :=
  ⟨fun ho => runObserves_unique ho ⟨n, h, rfl⟩, fun ho => ⟨n, h, ho⟩⟩

/-! ## CSENTER and CSEXIT against the critical section (43 R181, R182) -/

/-- CSENTER inside a critical section (43 R181). -/
theorem exec_csenter_of_nested {s : State} (h : s.irq.csActive = true) :
    exec .csenter s = .next (s.raise .csNested) := by
  simp [exec, execCsenter, h]

/-- CSEXIT outside a critical section (43 R182). -/
theorem exec_csexit_of_unbalanced {s : State} (h : s.irq.csActive = false) :
    exec .csexit s = .next (s.raise .csUnbalanced) := by
  simp [exec, execCsexit, h]

/-- The registers CSENTER writes but for FAULT (43 R181). -/
theorem mem_of_writesRegister_csenter (r : RegName) (hw : writesRegister .csenter r = true) (hf : r ≠ .fault) :
    r ∈ [.csSaved, .gie, .csActive] := by
  cases r
  case fault => exact absurd rfl hf
  case csSaved | gie | csActive => simp
  all_goals cases hw

/-- The registers CSEXIT writes but for FAULT (43 R182). -/
theorem mem_of_writesRegister_csexit (r : RegName) (hw : writesRegister .csexit r = true) (hf : r ≠ .fault) :
    r ∈ [.gie, .csActive] := by
  cases r
  case fault => exact absurd rfl hf
  case gie | csActive => simp
  all_goals cases hw

/-! ## The wait and what ends it (43 R183, 60 R210) -/

/-- The wait instruction of the loops of AWAIT and WAITS. -/
theorem threadStep_preSleep {s : State} {r : Resume} (hp : s.tph = .preSleep r) :
    threadStep s = .next (s.setPhase (.sleeping r)) := by
  simp [threadStep, hp, fallAsleep]

/-- A thread in a phase without a step is refused one. -/
theorem threadStep_of_no_step {s : State} (hp : s.tph.hasStep = false) : threadStep s = .refused .threadHasNoStep := by
  unfold threadStep
  cases h : s.tph
  case sleeping | halted | faulted => rfl
  all_goals simp [h, Phase.hasStep] at hp

/-- An entry of any source, when it is taken, wakes the thread (60 R210). -/
theorem tph_of_exec_entry {q : Source} {s t : State} (h : exec q.entry s = .next t) : t.tph = s.tph.woken := by
  cases q with
  | tick =>
    obtain ⟨-, rfl⟩ := (execIntTick_next_iff s t).1 h
    rfl
  | capture =>
    obtain ⟨-, rfl⟩ := (execIntCap_next_iff s t).1 h
    rfl
  | bus =>
    obtain ⟨-, b, d, rfl, -⟩ := execIntBus_next s t h
    rfl

/-- An environment event leaves the phase alone: it is a run word, and not the word of an entry. -/
theorem tph_of_exec_event {i : Instr} {s t : State} (hi : i.space = .event) (h : exec i s = .next t) :
    t.tph = s.tph := by
  obtain ⟨-, -, ht | ⟨q, rfl, -, -⟩⟩ := (exec_effect h).runWord_marks (by simp [Instr.isRunWord, hi])
  · exact ht
  · cases q <;> cases hi

/-! ## STB (43 R184, R185) -/

/-- The borrowed bytes are those of the submitted buffer, while BST is busy (43 R185). -/
theorem State.borrowed_iff (s : State) (a : Nat) :
    s.borrowed a = true ↔ (s.bus.bst = .starting ∨ s.bus.bst = .addressSent ∨ s.bus.bst = .dataSending) ∧
      s.bus.bbase.toNat ≤ a ∧ a < s.bus.bbase.toNat + s.bus.blen.toNat := by
  simp [State.borrowed, BusState.busy_iff, and_assoc]

section
variable {s : State} {a : Half} {v : Byte}

/-- STB at or past MEM_SIZE. -/
theorem exec_stb_of_outside (h : s.params.memSize ≤ a.toNat) : exec (.stb a v) s = .next (s.raise .memRange) := by
  simp [exec, execStb, h]

/-- STB to a borrowed byte of data memory. -/
theorem exec_stb_of_borrowed (h : a.toNat < s.params.memSize) (hb : s.borrowed a.toNat = true) :
    exec (.stb a v) s = .next (s.raise .payloadMutated) := by
  simp [exec, execStb, h, hb]

/-- STB to any other byte of data memory. -/
theorem exec_stb (h : a.toNat < s.params.memSize) (hb : s.borrowed a.toNat = false) :
    exec (.stb a v) s = .next ((s.memWrite a.toNat v).advance 1) := by
  simp [exec, execStb, h, hb]

end

/-- STB writes no register but FAULT. -/
theorem eq_fault_of_writesRegister_stb {a : Half} {v : Byte} {r : RegName} (hw : writesRegister (.stb a v) r = true) :
    r = .fault := by
  cases r
  case fault => rfl
  all_goals cases hw

end Sys2Proof.Machine

/-! ## The obligations -/

section
open Sys2Proof Sys2Proof.Machine

/-- Settles O36: END's step is from phase RUN, so no state up to it was halted, and it writes nothing observed. -/
theorem endHaltsTheThread : Obligations.EndHaltsTheThread := by
  refine ⟨fun s => ⟨rfl, rfl, fun hp => threadStep_of_no_step (by rw [hp]; rfl)⟩, ?_⟩
  intro f n hr hb ha hp hf hfault hrefused
  obtain ⟨agenda, draws, hstep⟩ := step_of_end hb ha hp hf
  have hnext : f (n + 1) = { f n with agenda := agenda, draws := draws, tph := .halted } :=
    Host.Outcome.next.inj ((hr n n.lt_succ_self).symm.trans hstep)
  have hobs : (f (n + 1)).observe = (f n).observe := by rw [hnext]; rfl
  have hbefore : IsRunUpTo f n := fun k hk => hr k (Nat.lt_succ_of_lt hk)
  have hend : SuccessfulEnd f (n + 1) := by
    refine ⟨hr, ?_, fun k hk => hbefore.haltedUnmarked_eq_false (Nat.le_of_lt_succ hk) (by simp [hp])⟩
    simp [State.haltedUnmarked, hnext, hfault, hrefused]
  exact ⟨hend, fun o => hobs ▸ hend.runObserves_iff o⟩

/-- Settles O41: the checks in their order, then the write, which in canonical memory is read back. -/
theorem stbWritesOneByte : Obligations.StbWritesOneByte := by
  rintro s a v ⟨hwf, -⟩ borrowed
  have hiff : s.borrowed a.toNat = true ↔ borrowed := s.borrowed_iff a.toNat
  refine ⟨fun hr => ⟨_, exec_stb_of_outside hr, faultedWith_raise s .memRange⟩,
    fun hr hb => ⟨_, exec_stb_of_borrowed hr (hiff.2 hb), faultedWith_raise s .payloadMutated⟩,
    fun hr hb => ?stores⟩
  case stores =>
    have h := exec_stb (v := v) hr (Bool.eq_false_iff.2 (mt hiff.1 hb))
    refine ⟨_, h, Memory.read_write_of_wf s.mem a.toNat v hwf,
      fun b hne => Memory.read_write_of_ne s.mem a.toNat b v hne, rfl, rfl, rfl,
      onlyWrites_of_exec h (fun r hw _ => ?_) ⟨rfl, rfl, rfl, rfl⟩⟩
    obtain rfl := eq_fault_of_writesRegister_stb hw
    rfl

/-- Settles O37: the check of CS_ACTIVE, and the three registers CSENTER writes. -/
theorem csenterMasksInterrupts : Obligations.CsenterMasksInterrupts := by
  intro s
  refine ⟨fun hc => ?enters, fun hc => ⟨_, exec_csenter_of_nested hc, faultedWith_raise s .csNested⟩, rfl⟩
  case enters =>
    have h := exec_csenter hc
    exact ⟨_, h, rfl, rfl, rfl, rfl, rfl,
      quietStep_of_exec h mem_of_writesRegister_csenter rfl ⟨rfl, rfl, rfl, rfl⟩ rfl rfl⟩

/-- Settles O38: the check of CS_ACTIVE, and the two registers CSEXIT writes. -/
theorem csexitRestoresInterrupts : Obligations.CsexitRestoresInterrupts := by
  intro s
  refine ⟨fun hc => ?exits, fun hc => ⟨_, exec_csexit_of_unbalanced hc, faultedWith_raise s .csUnbalanced⟩, rfl⟩
  case exits =>
    have h := exec_csexit hc
    exact ⟨_, h, rfl, rfl, rfl, rfl,
      quietStep_of_exec h mem_of_writesRegister_csexit rfl ⟨rfl, rfl, rfl, rfl⟩ rfl rfl⟩

/-- Settles O40: the two ways to fall asleep, and that only an entry moves the phase of a sleeper. -/
theorem sleepWaitsForAnInterrupt : Obligations.SleepWaitsForAnInterrupt := by
  refine fun s => ⟨rfl, fun r => threadStep_preSleep,
    fun r hp => ⟨?noStep, fun q t h => ?woken, fun i t hi h => ?asleep⟩, rfl⟩
  case noStep => exact threadStep_of_no_step (by rw [hp]; rfl)
  case woken =>
    have ht := tph_of_exec_entry h
    rwa [hp] at ht
  case asleep => exact (tph_of_exec_event hi h).trans hp

end
end

section
/-! PROOFS. Interrupts and environment (60): when an entry has a step (R204), what an entry of any source writes and what
it leaves alone (R205, R208, R210), and the steps of TIMER, LINE and BUSCTL (R211 to R213). -/

namespace Sys2Proof.Machine

/-! ## The pending flags (60 R205) -/

/-- Clearing a pending flag clears it. -/
theorem Irq.clear_pending_same (r : Irq) (q : Source) : (r.clear q).pending q = false := by
  cases q <;> rfl

/-- The flags of the other sources stay. -/
theorem Irq.clear_pending_of_ne (r : Irq) {q q' : Source} (h : q' ≠ q) : (r.clear q).pending q' = r.pending q' := by
  cases q <;> cases q'
  case tick.tick | capture.capture | bus.bus => exact absurd rfl h
  all_goals rfl

/-! ## Interrupt entries of any source (60 R204, R205) -/

/-- Entry is enabled by three bits. -/
theorem State.entryEnabled_iff (s : State) (q : Source) :
    s.entryEnabled q = true ↔ s.irq.gie = true ∧ s.irq.enable q = true ∧ s.irq.pending q = true := by
  simp [State.entryEnabled, and_assoc]

/-- An entry has no step exactly when it is not enabled. -/
theorem exec_entry_refused_iff (s : State) (q : Source) :
    exec q.entry s = .refused (.entryNotEnabled q) ↔ s.entryEnabled q = false := by
  refine ⟨fun h => ?_, exec_entry_of_not_enabled⟩
  have hrun : q.entry.isRunWord = true := by cases q <;> rfl
  have hoff : eventEnabled q.entry s = false := (exec_runWord_isRefused_iff hrun s).1 ⟨_, h⟩
  cases q <;> exact hoff

/-- The same on the values of the three registers. -/
theorem not_three_bits_iff_exec_entry_refused (s : State) (q : Source) :
    ¬ (s.irq.gie.toNat = 1 ∧ (s.irq.enable q).toNat = 1 ∧ (s.irq.pending q).toNat = 1) ↔
      exec q.entry s = .refused (.entryNotEnabled q) := by
  simp only [exec_entry_refused_iff, Bool.toNat_eq_one, ← State.entryEnabled_iff, Bool.not_eq_true]

/-- All that an entry of any source can write: the window, the bus, the clock, the draw counter, its own pending flag
and, by the wake, the phase. -/
theorem exec_entry_next {q : Source} {s t : State} (h : exec q.entry s = .next t) :
    s.entryEnabled q = true ∧ ∃ w b c d,
      t = { s with win := w, bus := b, clk := c, draws := d, irq := s.irq.clear q, tph := s.tph.woken } := by
  cases q with
  | tick =>
    obtain ⟨he, rfl⟩ := (execIntTick_next_iff s t).1 h
    exact ⟨he, _, _, _, _, rfl⟩
  | capture =>
    obtain ⟨he, rfl⟩ := (execIntCap_next_iff s t).1 h
    exact ⟨he, _, _, _, _, rfl⟩
  | bus =>
    obtain ⟨he, b, d, rfl, -⟩ := execIntBus_next s t h
    exact ⟨he, _, _, _, _, rfl⟩

/-! ## The environment's steps (60 R211 to R213) -/

/-- EV_TCNT at the end of the period. -/
theorem exec_evTcnt_of_last {s : State} (h : s.clk.tcnt.toNat = s.params.period - 1) :
    exec .evTcnt s = .next { s with clk := { s.clk with tcnt := 0 }, irq := { s.irq with ifTick := true } } :=
  congrArg Host.Outcome.next (if_pos h)

/-- EV_TCNT anywhere else. -/
theorem exec_evTcnt_of_not_last {s : State} (h : s.clk.tcnt.toNat ≠ s.params.period - 1) :
    exec .evTcnt s = .next { s with clk := { s.clk with tcnt := s.clk.tcnt + 1 } } :=
  congrArg Host.Outcome.next (if_neg h)

/-- EV_BUS with an operation in flight. -/
theorem exec_evBus {s : State} (st : Byte) (h : s.bus.bhw = true) : exec (.evBus st) s = .next (completeBus st s) :=
  (execEvBus_next_iff st s _).2 ⟨h, rfl⟩

/-- EV_BUS without one. -/
theorem exec_evBus_of_no_operation {s : State} (st : Byte) (h : s.bus.bhw = false) :
    exec (.evBus st) s = .refused .noBusOperation := by
  simp [exec, execEvBus, h]

/-- A count below a legal period does not overflow TCNT when it advances. -/
theorem toNat_tcnt_succ {p : Nat} {c : Half} (hp : p ≤ 65535) (hc : c.toNat < p) : (c + 1).toNat = c.toNat + 1 :=
  BitVec.toNat_add_of_lt (show c.toNat + 1 < 65536 by omega)

/-! ## Frames -/

/-- The registers the TIMER step writes (60 R211). -/
theorem mem_of_writesRegister_evTcnt (r : RegName) (hw : writesRegister .evTcnt r = true) : r ∈ [.tcnt, .ifTick] := by
  cases r
  case tcnt | ifTick => simp
  all_goals cases hw

/-- The registers the LINE step writes (60 R212). -/
theorem mem_of_writesRegister_evEdge (r : RegName) (hw : writesRegister .evEdge r = true) : r ∈ [.icr, .ifCap] := by
  cases r
  case icr | ifCap => simp
  all_goals cases hw

/-- The registers the BUSCTL step writes (60 R213). -/
theorem mem_of_writesRegister_evBus {st : Byte} (r : RegName) (hw : writesRegister (.evBus st) r = true) :
    r ∈ [.bstat, .ifBus, .bhw] := by
  cases r
  case bstat | ifBus | bhw => simp
  all_goals cases hw

/-- Short of the end of the period the TIMER step writes TCNT alone: IF_TICK holds what it held. -/
theorem quietStep_evTcnt_of_not_last {s : State} (h : s.clk.tcnt.toNat ≠ s.params.period - 1) :
    QuietStep [.tcnt] s { s with clk := { s.clk with tcnt := s.clk.tcnt + 1 } } := by
  refine ⟨onlyWrites_of_exec (exec_evTcnt_of_not_last h) (fun r hw hr => ?_) ⟨rfl, rfl, rfl, rfl⟩, fun _ => rfl, rfl⟩
  obtain rfl : r = .ifTick := by simpa [List.mem_singleton.not.1 hr] using mem_of_writesRegister_evTcnt r hw
  rfl

end Sys2Proof.Machine

/-! ## The obligations -/

section
open Sys2Proof Sys2Proof.Machine

/-- Settles O43: of what an entry can write, only its own pending flag and the phase are the thread's or the
interrupts'. -/
theorem entryKeepsTheThread : Obligations.EntryKeepsTheThread := by
  intro q s t h
  obtain ⟨he, w, b, c, d, rfl⟩ := exec_entry_next h
  obtain ⟨hgie, -, -⟩ := (s.entryEnabled_iff q).1 he
  exact ⟨s.irq.clear_pending_same q, fun _ hne => s.irq.clear_pending_of_ne hne, fun _ => s.irq.clear_enable q _,
    s.irq.clear_gie q, hgie, s.irq.clear_csActive q, s.irq.clear_csSaved q, rfl, rfl, rfl, rfl, rfl,
    ⟨rfl, rfl, rfl, rfl⟩, woken_of_tph s _ rfl⟩

/-- Settles O42, source by source. -/
theorem entryNeedsAllThreeBits : Obligations.EntryNeedsAllThreeBits := fun s =>
  ⟨not_three_bits_iff_exec_entry_refused s .tick, not_three_bits_iff_exec_entry_refused s .capture,
    not_three_bits_iff_exec_entry_refused s .bus⟩

/-- Settles O44: the wrap, or a count that does not overflow. -/
theorem timerStepCountsAndWraps : Obligations.TimerStepCountsAndWraps := by
  rintro s ⟨-, hp, -⟩ hc
  by_cases hlast : s.clk.tcnt.toNat = s.params.period - 1
  · have h := exec_evTcnt_of_last hlast
    exact ⟨_, h, rfl, rfl, fun _ => ⟨rfl, rfl,
      quietStep_of_exec h (fun r hw _ => mem_of_writesRegister_evTcnt r hw) rfl ⟨rfl, rfl, rfl, rfl⟩ rfl rfl⟩,
      fun hne => absurd hlast hne⟩
  · exact ⟨_, exec_evTcnt_of_not_last hlast, rfl, rfl, fun he => absurd he hlast, fun _ =>
      ⟨toNat_tcnt_succ hp hc, quietStep_evTcnt_of_not_last hlast⟩⟩

/-- Settles O45: ICR and IF_CAP are the registers LINE writes, whatever the state. -/
theorem lineStepLatchesTheTimer : Obligations.LineStepLatchesTheTimer := fun _ =>
  ⟨_, rfl, rfl, rfl, rfl, rfl,
    quietStep_of_exec (i := .evEdge) rfl (fun r hw _ => mem_of_writesRegister_evEdge r hw) rfl ⟨rfl, rfl, rfl, rfl⟩
      rfl rfl⟩

/-- Settles O46: BUSCTL's step is enabled by BHW, and writes three registers. -/
theorem busctlStepCompletesTheOperation : Obligations.BusctlStepCompletesTheOperation := by
  intro s st
  refine ⟨fun hw => ?completes, exec_evBus_of_no_operation st⟩
  case completes =>
    have h := exec_evBus st hw
    exact ⟨_, h, rfl, rfl, rfl, rfl, rfl,
      quietStep_of_exec h (fun r hw _ => mem_of_writesRegister_evBus r hw) rfl ⟨rfl, rfl, rfl, rfl⟩ rfl rfl⟩

end
end

section
/-! PROOFS. Reset and boot (70): every register right after reset (R240), and the three boot steps from there to the launch
state (R242, R243). -/

namespace Sys2Proof.Machine

/-! ## Right after reset (70 R240) -/

/-- A power cycle puts every register at its reset value, whatever is loaded with it. -/
theorem value_powerOn (p : Params) (cl : List Word) (mem : Memory) (r : RegName) :
    (State.powerOn p cl mem).value r = r.resetValue p := by
  cases r
  case iv i => exact congrArg BitVec.toNat (Vector.getElem_replicate i.isLt)
  all_goals rfl

/-- Every reset value but two is zero. -/
theorem RegName.resetValue_eq_zero (p : Params) {r : RegName} (hrval : r ≠ .rval) (hthr : r ≠ .thr) :
    r.resetValue p = 0 := by
  cases r
  case rval => exact absurd rfl hrval
  case thr => exact absurd rfl hthr
  all_goals rfl

/-! ## Boot (70 R242) -/

/-- A run of k + 1 steps whose first step goes to t is the run of k steps from there. -/
theorem core_run_succ_of_step {s t : State} (k : Nat) (h : step s = .next t) :
    Host.Core.run core (k + 1) s = Host.Core.run core k t := by
  have hcore : core.step s = .next t := h
  simp only [Host.Core.run, hcore]

/-- Until launch the first step of a run is a boot step. -/
theorem core_run_succ_of_not_launched {s : State} (k : Nat) (hb : s.boot ≠ .launched) :
    Host.Core.run core (k + 1) s = Host.Core.run core k s.bootStep := by
  rcases step_taken s with ⟨-, hstep⟩ | ⟨hl, -⟩
  · exact core_run_succ_of_step k hstep
  · exact absurd hl hb

/-- Three steps from a power cycle are the whole boot sequence. -/
theorem core_run_powerOn (p : Params) (cl : List Word) (mem : Memory) :
    Host.Core.run core 3 (State.powerOn p cl mem) = .next (State.launch p cl mem) := by
  calc Host.Core.run core 3 (State.powerOn p cl mem)
    _ = Host.Core.run core 2 (State.powerOn p cl mem).bootStep := core_run_succ_of_not_launched 2 BootStage.noConfusion
    _ = Host.Core.run core 1 (State.powerOn p cl mem).bootStep.bootStep := core_run_succ_of_not_launched 1 BootStage.noConfusion
    _ = Host.Core.run core 0 (State.launch p cl mem) := core_run_succ_of_not_launched 0 BootStage.noConfusion

/-- The boot sequence leaves every register but the three enables at its reset value. -/
theorem value_launch_of_not_enable (p : Params) (cl : List Word) (mem : Memory) {r : RegName}
    (hr : r ∉ ([.ieTick, .ieBus, .gie] : List RegName)) : (State.launch p cl mem).value r = r.resetValue p := by
  rw [← value_powerOn p cl mem r]
  cases r
  case ieTick | ieBus | gie => simp at hr
  all_goals rfl

/-- The post-boot state is LAUNCH_CLEAN for legal parameters and a canonical memory (70 R243). -/
theorem launchClean_launch {p : Params} {mem : Memory} (cl : List Word) (hp : p.Legal) (hwf : mem.wf)
    (hbelow : mem.below p.memSize) : LaunchClean (State.launch p cl mem) :=
  ⟨hp, hwf, hbelow, rfl⟩

end Sys2Proof.Machine

/-! ## The obligations -/

section
open Sys2Proof Sys2Proof.Machine

/-- Settles O8: the three boot steps end in the launch state, where only the three enables have left their reset
values. -/
theorem bootReachesTheLaunchState : Obligations.BootReachesTheLaunchState := fun p cl mem hp hwf hbelow =>
  ⟨State.launch p cl mem, core_run_powerOn p cl mem, rfl, rfl, rfl, rfl,
    fun _ hr => value_launch_of_not_enable p cl mem hr, rfl, rfl, rfl, rfl, rfl, rfl,
    launchClean_launch cl hp hwf hbelow⟩

/-- Settles O9: the reset state is a power cycle with the implementation's parameters. -/
theorem resetRegisterValues : Obligations.ResetRegisterValues :=
  ⟨fun r hrval hthr => (value_powerOn Config.params [] [] r).trans (RegName.resetValue_eq_zero _ hrval hthr),
    value_powerOn Config.params [] [] .rval, value_powerOn Config.params [] [] .thr, rfl, rfl, rfl⟩

end
end
